-- ==== Sys2Proof/Word.lean ====
section
/-! DEFINITION. The words of the machine: bytes and 16-bit addresses (R8, R10). -/

namespace Sys2Proof

/-- An 8-bit value: a data byte, an 8-bit register, a status byte (R8). -/
abbrev Byte := BitVec 8

/-- A 16-bit value: an address, the program counter, a pointer (R8). -/
abbrev Word := BitVec 16

end Sys2Proof
end

