-- ==== Sys2Proof/Syntax.lean ====
section
/-! DEFINITION. The instructions as terms: modes, mnemonics, operands, and one constructor of Instr for
each instruction rule of opcode_table.json. An addressing-mode operand is an argument; where several opcode
bytes have one rule and one mode (the undocumented NOPs, ANC, JAM) the opcode byte is an argument too, so that
every row of the table is one term up to its operand bytes (log 21). -/

namespace Sys2Proof

/-- The thirteen addressing-mode tags (R126, C6). -/
inductive Mode where
  | imp | acc | imm | zp | zpx | zpy | abs | absx | absy | ind | indx | indy | rel
  deriving DecidableEq, Repr

/-- The mnemonic column of opcode_table.json (R123). -/
inductive Mnemonic where
  | adc | ahx | alr | anc | and | arr | asl | axs | bcc | bcs | beq | bit | bmi | bne | bpl | brk | bvc | bvs
  | clc | cld | cli | clv | cmp | cpx | cpy | dcp | dec | dex | dey | eor | inc | inx | iny | isb | jam | jmp
  | jsr | las | lax | lda | ldx | ldy | lsr | lxa | nop | ora | pha | php | pla | plp | rla | rol | ror | rra
  | rti | rts | sax | sbc | sec | sed | sei | shx | shy | slo | sre | sta | stx | sty | tas | tax | tay | tsx
  | txa | txs | tya | xaa
  deriving DecidableEq, Repr

/-- An operand as the instruction carries it: its mode and the value of its operand bytes (R126). -/
inductive Operand where
  /-- ACC: the accumulator. -/
  | acc
  /-- IMM: the operand byte itself. -/
  | imm (value : Byte)
  /-- ZP: an address in page 0. -/
  | zp (addr : Byte)
  /-- ZPX: a page-0 address to which X is added modulo 256. -/
  | zpx (addr : Byte)
  /-- ZPY: a page-0 address to which Y is added modulo 256. -/
  | zpy (addr : Byte)
  /-- ABS: an address. -/
  | abs (addr : Word)
  /-- ABSX: an address to which X is added modulo 2^16. -/
  | absx (addr : Word)
  /-- ABSY: an address to which Y is added modulo 2^16. -/
  | absy (addr : Word)
  /-- IND: the address of a pointer (JMP only). -/
  | ind (ptr : Word)
  /-- INDX: X is added in page 0, then a pointer is read there. -/
  | indx (addr : Byte)
  /-- INDY: a pointer is read in page 0, then Y is added to it. -/
  | indy (addr : Byte)
  /-- REL: a signed offset from the next instruction. -/
  | rel (offset : Byte)
  deriving DecidableEq, Repr

/-- The mode tag of an operand. -/
def Operand.mode : Operand → Mode
  | .acc => .acc
  | .imm _ => .imm
  | .zp _ => .zp
  | .zpx _ => .zpx
  | .zpy _ => .zpy
  | .abs _ => .abs
  | .absx _ => .absx
  | .absy _ => .absy
  | .ind _ => .ind
  | .indx _ => .indx
  | .indy _ => .indy
  | .rel _ => .rel

/-- One constructor per instruction rule of opcode_table.json. -/
inductive Instr where
  -- loads, stores and transfers (40_load_store_transfer.md)
  | lda (o : Operand)
  | ldx (o : Operand)
  | ldy (o : Operand)
  | sta (o : Operand)
  | stx (o : Operand)
  | sty (o : Operand)
  | tax
  | tay
  | txa
  | tya
  | tsx
  | txs
  -- stack (41_stack.md)
  | pha
  | php
  | pla
  | plp
  -- arithmetic (42_arithmetic.md)
  | adc (o : Operand)
  | sbc (o : Operand)
  | cmp (o : Operand)
  | cpx (o : Operand)
  | cpy (o : Operand)
  | inc (o : Operand)
  | dec (o : Operand)
  | inx
  | iny
  | dex
  | dey
  -- logic, bit test, shifts and rotates (43_logic_shift.md)
  | and (o : Operand)
  | ora (o : Operand)
  | eor (o : Operand)
  | bit (o : Operand)
  | asl (o : Operand)
  | lsr (o : Operand)
  | rol (o : Operand)
  | ror (o : Operand)
  -- control (44_control.md)
  | jmpAbs (target : Word)
  | jmpInd (ptr : Word)
  | jsr (target : Word)
  | rts
  | rti
  | bpl (offset : Byte)
  | bmi (offset : Byte)
  | bvc (offset : Byte)
  | bvs (offset : Byte)
  | bcc (offset : Byte)
  | bcs (offset : Byte)
  | bne (offset : Byte)
  | beq (offset : Byte)
  | brk
  | nop
  -- flags (45_flags.md)
  | clc
  | sec
  | cli
  | sei
  | clv
  | cld
  | sed
  -- undocumented (46_undocumented.md R331 to R347)
  /-- The implied undocumented NOPs; `op` is the opcode byte (R331). -/
  | nopImp (op : Byte)
  /-- The immediate undocumented NOPs (R332). -/
  | nopImm (op : Byte) (value : Byte)
  /-- The memory undocumented NOPs (R333). -/
  | nopMem (op : Byte) (o : Operand)
  | slo (o : Operand)
  | rla (o : Operand)
  | sre (o : Operand)
  | rra (o : Operand)
  | sax (o : Operand)
  | lax (o : Operand)
  | dcp (o : Operand)
  | isb (o : Operand)
  /-- ANC; `op` is the opcode byte, 0x0B or 0x2B (R342). -/
  | anc (op : Byte) (value : Byte)
  | alr (value : Byte)
  | arr (value : Byte)
  | axs (value : Byte)
  /-- SBC 0xEB, the undocumented alias (R346). -/
  | sbcEB (value : Byte)
  | las (addr : Word)
  -- opcodes behind the unimplemented marker (46_undocumented.md R348 to R354)
  | xaa (value : Byte)
  | lxa (value : Byte)
  | ahx (o : Operand)
  | tas (addr : Word)
  | shy (addr : Word)
  | shx (addr : Word)
  /-- JAM; `op` is the opcode byte (R354). -/
  | jam (op : Byte)
  deriving DecidableEq, Repr

end Sys2Proof
end

