-- ==== Sys2Proof/WellFormed.lean ====
section
/-! DEFINITION. Which terms of Instr are instructions: the addressing modes each instruction rule lists under
"Opcodes", and the opcode bytes of the rules that carry one. -/

namespace Sys2Proof

/-- The operand's mode is one of `ms`. -/
def Operand.oneOf (ms : List Mode) (o : Operand) : Bool := decide (o.mode ∈ ms)

/-- The modes of a read instruction of the ALU group (R200, R241, R242, R244, R270 to R272). -/
def aluModes : List Mode := [.imm, .zp, .zpx, .abs, .absx, .absy, .indx, .indy]

/-- The modes of the shifts and rotates (R274 to R277). -/
def shiftModes : List Mode := [.acc, .zp, .zpx, .abs, .absx]

/-- The modes of INC and DEC (R247, R248). -/
def stepModes : List Mode := [.zp, .zpx, .abs, .absx]

/-- The modes of the combined read-modify-write opcodes (R334 to R337, R340, R341). -/
def comboModes : List Mode := [.zp, .zpx, .abs, .absx, .absy, .indx, .indy]

/-- The opcode bytes of a memory form of the undocumented NOP (R333). -/
def nopMemOpcodes : Mode → List Byte
  | .zp => [0x04, 0x44, 0x64]
  | .zpx => [0x14, 0x34, 0x54, 0x74, 0xD4, 0xF4]
  | .abs => [0x0C]
  | .absx => [0x1C, 0x3C, 0x5C, 0x7C, 0xDC, 0xFC]
  | _ => []

/-- The opcode bytes of the implied undocumented NOP (R331). -/
def nopImpOpcodes : List Byte := [0x1A, 0x3A, 0x5A, 0x7A, 0xDA, 0xFA]

/-- The opcode bytes of the immediate undocumented NOP (R332). -/
def nopImmOpcodes : List Byte := [0x80, 0x82, 0x89, 0xC2, 0xE2]

/-- The opcode bytes of ANC (R342). -/
def ancOpcodes : List Byte := [0x0B, 0x2B]

/-- The opcode bytes of JAM (R354). -/
def jamOpcodes : List Byte :=
  [0x02, 0x12, 0x22, 0x32, 0x42, 0x52, 0x62, 0x72, 0x92, 0xB2, 0xD2, 0xF2]

/-- The term is an instruction of the opcode table. -/
def Instr.wellFormed : Instr → Bool
  | .lda o => o.oneOf aluModes
  | .ldx o => o.oneOf [.imm, .zp, .zpy, .abs, .absy]
  | .ldy o => o.oneOf [.imm, .zp, .zpx, .abs, .absx]
  | .sta o => o.oneOf [.zp, .zpx, .abs, .absx, .absy, .indx, .indy]
  | .stx o => o.oneOf [.zp, .zpy, .abs]
  | .sty o => o.oneOf [.zp, .zpx, .abs]
  | .tax => true
  | .tay => true
  | .txa => true
  | .tya => true
  | .tsx => true
  | .txs => true
  | .pha => true
  | .php => true
  | .pla => true
  | .plp => true
  | .adc o => o.oneOf aluModes
  | .sbc o => o.oneOf aluModes
  | .cmp o => o.oneOf aluModes
  | .cpx o => o.oneOf [.imm, .zp, .abs]
  | .cpy o => o.oneOf [.imm, .zp, .abs]
  | .inc o => o.oneOf stepModes
  | .dec o => o.oneOf stepModes
  | .inx => true
  | .iny => true
  | .dex => true
  | .dey => true
  | .and o => o.oneOf aluModes
  | .ora o => o.oneOf aluModes
  | .eor o => o.oneOf aluModes
  | .bit o => o.oneOf [.zp, .abs]
  | .asl o => o.oneOf shiftModes
  | .lsr o => o.oneOf shiftModes
  | .rol o => o.oneOf shiftModes
  | .ror o => o.oneOf shiftModes
  | .jmpAbs _ => true
  | .jmpInd _ => true
  | .jsr _ => true
  | .rts => true
  | .rti => true
  | .bpl _ => true
  | .bmi _ => true
  | .bvc _ => true
  | .bvs _ => true
  | .bcc _ => true
  | .bcs _ => true
  | .bne _ => true
  | .beq _ => true
  | .brk => true
  | .nop => true
  | .clc => true
  | .sec => true
  | .cli => true
  | .sei => true
  | .clv => true
  | .cld => true
  | .sed => true
  | .nopImp op => decide (op ∈ nopImpOpcodes)
  | .nopImm op _ => decide (op ∈ nopImmOpcodes)
  | .nopMem op o => decide (op ∈ nopMemOpcodes o.mode)
  | .slo o => o.oneOf comboModes
  | .rla o => o.oneOf comboModes
  | .sre o => o.oneOf comboModes
  | .rra o => o.oneOf comboModes
  | .sax o => o.oneOf [.zp, .zpy, .abs, .indx]
  | .lax o => o.oneOf [.zp, .zpy, .abs, .absy, .indx, .indy]
  | .dcp o => o.oneOf comboModes
  | .isb o => o.oneOf comboModes
  | .anc op _ => decide (op ∈ ancOpcodes)
  | .alr _ => true
  | .arr _ => true
  | .axs _ => true
  | .sbcEB _ => true
  | .las _ => true
  | .xaa _ => true
  | .lxa _ => true
  | .ahx o => o.oneOf [.indy, .absy]
  | .tas _ => true
  | .shy _ => true
  | .shx _ => true
  | .jam op => decide (op ∈ jamOpcodes)

end Sys2Proof
end

