-- ==== Sys2Proof/Decode.lean ====
section
/-! DEFINITION. The opcode table (R123, R150 to R153), the decoder, total on any bytes, and the encoder, written
from the per-mnemonic table of R152. Also the byte-order helpers of 16-bit operands (R74). -/

namespace Sys2Proof

/-- The low byte of a 16-bit value (R10). -/
def lo8 (w : Word) : Byte := w.extractLsb' 0 8

/-- The high byte of a 16-bit value (R10). -/
def hi8 (w : Word) : Byte := w.extractLsb' 8 8

/-- The 16-bit value `hi:lo`, `hi*256 + lo` (R10). -/
def word16 (hi lo : Byte) : Word := hi ++ lo

/-- One row of the opcode table (R123). `baseCycles` is 0 in the rows behind the unimplemented marker, which
are never charged (R124). -/
structure Descriptor where
  mnemonic : Mnemonic
  mode : Mode
  length : Nat
  baseCycles : Nat
  pagePenalty : Bool
  implemented : Bool
  deriving DecidableEq, Repr

/-- A row without page penalty. -/
def Descriptor.plain (m : Mnemonic) (mode : Mode) (length cycles : Nat) : Descriptor :=
  ⟨m, mode, length, cycles, false, true⟩

/-- A row of a page-boundary-sensitive opcode (R151). -/
def Descriptor.paged (m : Mnemonic) (mode : Mode) (length cycles : Nat) : Descriptor :=
  ⟨m, mode, length, cycles, true, true⟩

/-- A row behind the unimplemented marker (R153). -/
def Descriptor.marked (m : Mnemonic) (mode : Mode) (length : Nat) : Descriptor :=
  ⟨m, mode, length, 0, false, false⟩

/-- Row 0 of the opcode map (R150): opcodes 0x00 to 0x0F, with the base cycles of R152. -/
def opRow0 : List Descriptor :=
  [.plain .brk .imp 1 7, .plain .ora .indx 2 6, .marked .jam .imp 1, .plain .slo .indx 2 8,
   .plain .nop .zp 2 3, .plain .ora .zp 2 3, .plain .asl .zp 2 5, .plain .slo .zp 2 5,
   .plain .php .imp 1 3, .plain .ora .imm 2 2, .plain .asl .acc 1 2, .plain .anc .imm 2 2,
   .plain .nop .abs 3 4, .plain .ora .abs 3 4, .plain .asl .abs 3 6, .plain .slo .abs 3 6]

/-- Row 1 of the opcode map (R150): opcodes 0x10 to 0x1F, with the base cycles of R152. -/
def opRow1 : List Descriptor :=
  [.plain .bpl .rel 2 2, .paged .ora .indy 2 5, .marked .jam .imp 1, .plain .slo .indy 2 8,
   .plain .nop .zpx 2 4, .plain .ora .zpx 2 4, .plain .asl .zpx 2 6, .plain .slo .zpx 2 6,
   .plain .clc .imp 1 2, .paged .ora .absy 3 4, .plain .nop .imp 1 2, .plain .slo .absy 3 7,
   .paged .nop .absx 3 4, .paged .ora .absx 3 4, .plain .asl .absx 3 7, .plain .slo .absx 3 7]

/-- Row 2 of the opcode map (R150): opcodes 0x20 to 0x2F, with the base cycles of R152. -/
def opRow2 : List Descriptor :=
  [.plain .jsr .abs 3 6, .plain .and .indx 2 6, .marked .jam .imp 1, .plain .rla .indx 2 8,
   .plain .bit .zp 2 3, .plain .and .zp 2 3, .plain .rol .zp 2 5, .plain .rla .zp 2 5,
   .plain .plp .imp 1 4, .plain .and .imm 2 2, .plain .rol .acc 1 2, .plain .anc .imm 2 2,
   .plain .bit .abs 3 4, .plain .and .abs 3 4, .plain .rol .abs 3 6, .plain .rla .abs 3 6]

/-- Row 3 of the opcode map (R150): opcodes 0x30 to 0x3F, with the base cycles of R152. -/
def opRow3 : List Descriptor :=
  [.plain .bmi .rel 2 2, .paged .and .indy 2 5, .marked .jam .imp 1, .plain .rla .indy 2 8,
   .plain .nop .zpx 2 4, .plain .and .zpx 2 4, .plain .rol .zpx 2 6, .plain .rla .zpx 2 6,
   .plain .sec .imp 1 2, .paged .and .absy 3 4, .plain .nop .imp 1 2, .plain .rla .absy 3 7,
   .paged .nop .absx 3 4, .paged .and .absx 3 4, .plain .rol .absx 3 7, .plain .rla .absx 3 7]

/-- Row 4 of the opcode map (R150): opcodes 0x40 to 0x4F, with the base cycles of R152. -/
def opRow4 : List Descriptor :=
  [.plain .rti .imp 1 6, .plain .eor .indx 2 6, .marked .jam .imp 1, .plain .sre .indx 2 8,
   .plain .nop .zp 2 3, .plain .eor .zp 2 3, .plain .lsr .zp 2 5, .plain .sre .zp 2 5,
   .plain .pha .imp 1 3, .plain .eor .imm 2 2, .plain .lsr .acc 1 2, .plain .alr .imm 2 2,
   .plain .jmp .abs 3 3, .plain .eor .abs 3 4, .plain .lsr .abs 3 6, .plain .sre .abs 3 6]

/-- Row 5 of the opcode map (R150): opcodes 0x50 to 0x5F, with the base cycles of R152. -/
def opRow5 : List Descriptor :=
  [.plain .bvc .rel 2 2, .paged .eor .indy 2 5, .marked .jam .imp 1, .plain .sre .indy 2 8,
   .plain .nop .zpx 2 4, .plain .eor .zpx 2 4, .plain .lsr .zpx 2 6, .plain .sre .zpx 2 6,
   .plain .cli .imp 1 2, .paged .eor .absy 3 4, .plain .nop .imp 1 2, .plain .sre .absy 3 7,
   .paged .nop .absx 3 4, .paged .eor .absx 3 4, .plain .lsr .absx 3 7, .plain .sre .absx 3 7]

/-- Row 6 of the opcode map (R150): opcodes 0x60 to 0x6F, with the base cycles of R152. -/
def opRow6 : List Descriptor :=
  [.plain .rts .imp 1 6, .plain .adc .indx 2 6, .marked .jam .imp 1, .plain .rra .indx 2 8,
   .plain .nop .zp 2 3, .plain .adc .zp 2 3, .plain .ror .zp 2 5, .plain .rra .zp 2 5,
   .plain .pla .imp 1 4, .plain .adc .imm 2 2, .plain .ror .acc 1 2, .plain .arr .imm 2 2,
   .plain .jmp .ind 3 5, .plain .adc .abs 3 4, .plain .ror .abs 3 6, .plain .rra .abs 3 6]

/-- Row 7 of the opcode map (R150): opcodes 0x70 to 0x7F, with the base cycles of R152. -/
def opRow7 : List Descriptor :=
  [.plain .bvs .rel 2 2, .paged .adc .indy 2 5, .marked .jam .imp 1, .plain .rra .indy 2 8,
   .plain .nop .zpx 2 4, .plain .adc .zpx 2 4, .plain .ror .zpx 2 6, .plain .rra .zpx 2 6,
   .plain .sei .imp 1 2, .paged .adc .absy 3 4, .plain .nop .imp 1 2, .plain .rra .absy 3 7,
   .paged .nop .absx 3 4, .paged .adc .absx 3 4, .plain .ror .absx 3 7, .plain .rra .absx 3 7]

/-- Row 8 of the opcode map (R150): opcodes 0x80 to 0x8F, with the base cycles of R152. -/
def opRow8 : List Descriptor :=
  [.plain .nop .imm 2 2, .plain .sta .indx 2 6, .plain .nop .imm 2 2, .plain .sax .indx 2 6,
   .plain .sty .zp 2 3, .plain .sta .zp 2 3, .plain .stx .zp 2 3, .plain .sax .zp 2 3,
   .plain .dey .imp 1 2, .plain .nop .imm 2 2, .plain .txa .imp 1 2, .marked .xaa .imm 2,
   .plain .sty .abs 3 4, .plain .sta .abs 3 4, .plain .stx .abs 3 4, .plain .sax .abs 3 4]

/-- Row 9 of the opcode map (R150): opcodes 0x90 to 0x9F, with the base cycles of R152. -/
def opRow9 : List Descriptor :=
  [.plain .bcc .rel 2 2, .plain .sta .indy 2 6, .marked .jam .imp 1, .marked .ahx .indy 2,
   .plain .sty .zpx 2 4, .plain .sta .zpx 2 4, .plain .stx .zpy 2 4, .plain .sax .zpy 2 4,
   .plain .tya .imp 1 2, .plain .sta .absy 3 5, .plain .txs .imp 1 2, .marked .tas .absy 3,
   .marked .shy .absx 3, .plain .sta .absx 3 5, .marked .shx .absy 3, .marked .ahx .absy 3]

/-- Row A of the opcode map (R150): opcodes 0xA0 to 0xAF, with the base cycles of R152. -/
def opRowA : List Descriptor :=
  [.plain .ldy .imm 2 2, .plain .lda .indx 2 6, .plain .ldx .imm 2 2, .plain .lax .indx 2 6,
   .plain .ldy .zp 2 3, .plain .lda .zp 2 3, .plain .ldx .zp 2 3, .plain .lax .zp 2 3,
   .plain .tay .imp 1 2, .plain .lda .imm 2 2, .plain .tax .imp 1 2, .marked .lxa .imm 2,
   .plain .ldy .abs 3 4, .plain .lda .abs 3 4, .plain .ldx .abs 3 4, .plain .lax .abs 3 4]

/-- Row B of the opcode map (R150): opcodes 0xB0 to 0xBF, with the base cycles of R152. -/
def opRowB : List Descriptor :=
  [.plain .bcs .rel 2 2, .paged .lda .indy 2 5, .marked .jam .imp 1, .paged .lax .indy 2 5,
   .plain .ldy .zpx 2 4, .plain .lda .zpx 2 4, .plain .ldx .zpy 2 4, .plain .lax .zpy 2 4,
   .plain .clv .imp 1 2, .paged .lda .absy 3 4, .plain .tsx .imp 1 2, .paged .las .absy 3 4,
   .paged .ldy .absx 3 4, .paged .lda .absx 3 4, .paged .ldx .absy 3 4, .paged .lax .absy 3 4]

/-- Row C of the opcode map (R150): opcodes 0xC0 to 0xCF, with the base cycles of R152. -/
def opRowC : List Descriptor :=
  [.plain .cpy .imm 2 2, .plain .cmp .indx 2 6, .plain .nop .imm 2 2, .plain .dcp .indx 2 8,
   .plain .cpy .zp 2 3, .plain .cmp .zp 2 3, .plain .dec .zp 2 5, .plain .dcp .zp 2 5,
   .plain .iny .imp 1 2, .plain .cmp .imm 2 2, .plain .dex .imp 1 2, .plain .axs .imm 2 2,
   .plain .cpy .abs 3 4, .plain .cmp .abs 3 4, .plain .dec .abs 3 6, .plain .dcp .abs 3 6]

/-- Row D of the opcode map (R150): opcodes 0xD0 to 0xDF, with the base cycles of R152. -/
def opRowD : List Descriptor :=
  [.plain .bne .rel 2 2, .paged .cmp .indy 2 5, .marked .jam .imp 1, .plain .dcp .indy 2 8,
   .plain .nop .zpx 2 4, .plain .cmp .zpx 2 4, .plain .dec .zpx 2 6, .plain .dcp .zpx 2 6,
   .plain .cld .imp 1 2, .paged .cmp .absy 3 4, .plain .nop .imp 1 2, .plain .dcp .absy 3 7,
   .paged .nop .absx 3 4, .paged .cmp .absx 3 4, .plain .dec .absx 3 7, .plain .dcp .absx 3 7]

/-- Row E of the opcode map (R150): opcodes 0xE0 to 0xEF, with the base cycles of R152. -/
def opRowE : List Descriptor :=
  [.plain .cpx .imm 2 2, .plain .sbc .indx 2 6, .plain .nop .imm 2 2, .plain .isb .indx 2 8,
   .plain .cpx .zp 2 3, .plain .sbc .zp 2 3, .plain .inc .zp 2 5, .plain .isb .zp 2 5,
   .plain .inx .imp 1 2, .plain .sbc .imm 2 2, .plain .nop .imp 1 2, .plain .sbc .imm 2 2,
   .plain .cpx .abs 3 4, .plain .sbc .abs 3 4, .plain .inc .abs 3 6, .plain .isb .abs 3 6]

/-- Row F of the opcode map (R150): opcodes 0xF0 to 0xFF, with the base cycles of R152. -/
def opRowF : List Descriptor :=
  [.plain .beq .rel 2 2, .paged .sbc .indy 2 5, .marked .jam .imp 1, .plain .isb .indy 2 8,
   .plain .nop .zpx 2 4, .plain .sbc .zpx 2 4, .plain .inc .zpx 2 6, .plain .isb .zpx 2 6,
   .plain .sed .imp 1 2, .paged .sbc .absy 3 4, .plain .nop .imp 1 2, .plain .isb .absy 3 7,
   .paged .nop .absx 3 4, .paged .sbc .absx 3 4, .plain .inc .absx 3 7, .plain .isb .absx 3 7]

/-- The row of the opcode map with a given high nibble (R150). -/
def opRow : Nat → List Descriptor
  | 0 => opRow0
  | 1 => opRow1
  | 2 => opRow2
  | 3 => opRow3
  | 4 => opRow4
  | 5 => opRow5
  | 6 => opRow6
  | 7 => opRow7
  | 8 => opRow8
  | 9 => opRow9
  | 10 => opRowA
  | 11 => opRowB
  | 12 => opRowC
  | 13 => opRowD
  | 14 => opRowE
  | 15 => opRowF
  | _ => []

/-- The opcode table: a total function from the opcode byte to its descriptor (R123, R124). -/
def descriptor (op : Byte) : Descriptor :=
  (opRow (op.toNat / 16)).getD (op.toNat % 16) (.marked .jam .imp 1)

/-- The operand of a mode whose operand bytes are `b1` and `b2`, the low byte first (R126). -/
def operandOf (m : Mode) (b1 b2 : Byte) : Operand :=
  match m with
  | .imp => .acc
  | .acc => .acc
  | .imm => .imm b1
  | .zp => .zp b1
  | .zpx => .zpx b1
  | .zpy => .zpy b1
  | .abs => .abs (word16 b2 b1)
  | .absx => .absx (word16 b2 b1)
  | .absy => .absy (word16 b2 b1)
  | .ind => .ind (word16 b2 b1)
  | .indx => .indx b1
  | .indy => .indy b1
  | .rel => .rel b1

/-- The undocumented and the documented NOP by mode (R305, R331 to R333). -/
def nopOf (op : Byte) (m : Mode) (b1 b2 : Byte) : Instr :=
  match m with
  | .imp => if op = 0xEA then .nop else .nopImp op
  | .imm => .nopImm op b1
  | m => .nopMem op (operandOf m b1 b2)

/-- The instruction of a descriptor row with its operand bytes (R150). -/
def assembleRow (op : Byte) (mn : Mnemonic) (m : Mode) (b1 b2 : Byte) : Instr :=
  match mn with
  | .adc => .adc (operandOf m b1 b2)
  | .ahx => .ahx (operandOf m b1 b2)
  | .alr => .alr b1
  | .anc => .anc op b1
  | .and => .and (operandOf m b1 b2)
  | .arr => .arr b1
  | .asl => .asl (operandOf m b1 b2)
  | .axs => .axs b1
  | .bcc => .bcc b1
  | .bcs => .bcs b1
  | .beq => .beq b1
  | .bit => .bit (operandOf m b1 b2)
  | .bmi => .bmi b1
  | .bne => .bne b1
  | .bpl => .bpl b1
  | .brk => .brk
  | .bvc => .bvc b1
  | .bvs => .bvs b1
  | .clc => .clc
  | .cld => .cld
  | .cli => .cli
  | .clv => .clv
  | .cmp => .cmp (operandOf m b1 b2)
  | .cpx => .cpx (operandOf m b1 b2)
  | .cpy => .cpy (operandOf m b1 b2)
  | .dcp => .dcp (operandOf m b1 b2)
  | .dec => .dec (operandOf m b1 b2)
  | .dex => .dex
  | .dey => .dey
  | .eor => .eor (operandOf m b1 b2)
  | .inc => .inc (operandOf m b1 b2)
  | .inx => .inx
  | .iny => .iny
  | .isb => .isb (operandOf m b1 b2)
  | .jam => .jam op
  | .jmp => if m = .ind then .jmpInd (word16 b2 b1) else .jmpAbs (word16 b2 b1)
  | .jsr => .jsr (word16 b2 b1)
  | .las => .las (word16 b2 b1)
  | .lax => .lax (operandOf m b1 b2)
  | .lda => .lda (operandOf m b1 b2)
  | .ldx => .ldx (operandOf m b1 b2)
  | .ldy => .ldy (operandOf m b1 b2)
  | .lsr => .lsr (operandOf m b1 b2)
  | .lxa => .lxa b1
  | .nop => nopOf op m b1 b2
  | .ora => .ora (operandOf m b1 b2)
  | .pha => .pha
  | .php => .php
  | .pla => .pla
  | .plp => .plp
  | .rla => .rla (operandOf m b1 b2)
  | .rol => .rol (operandOf m b1 b2)
  | .ror => .ror (operandOf m b1 b2)
  | .rra => .rra (operandOf m b1 b2)
  | .rti => .rti
  | .rts => .rts
  | .sax => .sax (operandOf m b1 b2)
  | .sbc => if op = 0xEB then .sbcEB b1 else .sbc (operandOf m b1 b2)
  | .sec => .sec
  | .sed => .sed
  | .sei => .sei
  | .shx => .shx (word16 b2 b1)
  | .shy => .shy (word16 b2 b1)
  | .slo => .slo (operandOf m b1 b2)
  | .sre => .sre (operandOf m b1 b2)
  | .sta => .sta (operandOf m b1 b2)
  | .stx => .stx (operandOf m b1 b2)
  | .sty => .sty (operandOf m b1 b2)
  | .tas => .tas (word16 b2 b1)
  | .tax => .tax
  | .tay => .tay
  | .tsx => .tsx
  | .txa => .txa
  | .txs => .txs
  | .tya => .tya
  | .xaa => .xaa b1

/-- The instruction of opcode byte `op` with operand bytes `b1`, `b2` (those its length does not have are not
looked at). -/
def assemble (op b1 b2 : Byte) : Instr :=
  assembleRow op (descriptor op).mnemonic (descriptor op).mode b1 b2

/-- Why bytes are no instruction: every opcode byte has a row (R124), so only bytes that are missing. -/
inductive DecodeError where
  /-- There is no opcode byte. -/
  | noOpcode
  /-- The bytes end before the operand bytes of opcode `op`. -/
  | missingOperand (op : Byte)
  deriving DecidableEq, Repr

/-- The decoder: the instruction at the head of the bytes, and the bytes after it (R125). -/
def decode : List Byte → Except DecodeError (Instr × List Byte)
  | [] => .error .noOpcode
  | op :: rest =>
    match (descriptor op).length, rest with
    | 1, r => .ok (assemble op 0 0, r)
    | 2, b1 :: r => .ok (assemble op b1 0, r)
    | 3, b1 :: b2 :: r => .ok (assemble op b1 b2, r)
    | _, _ => .error (.missingOperand op)

/-- The mnemonic of an instruction, as the opcode table has it. -/
def Instr.mnemonic : Instr → Mnemonic
  | .lda _ => .lda
  | .ldx _ => .ldx
  | .ldy _ => .ldy
  | .sta _ => .sta
  | .stx _ => .stx
  | .sty _ => .sty
  | .tax => .tax
  | .tay => .tay
  | .txa => .txa
  | .tya => .tya
  | .tsx => .tsx
  | .txs => .txs
  | .pha => .pha
  | .php => .php
  | .pla => .pla
  | .plp => .plp
  | .adc _ => .adc
  | .sbc _ => .sbc
  | .cmp _ => .cmp
  | .cpx _ => .cpx
  | .cpy _ => .cpy
  | .inc _ => .inc
  | .dec _ => .dec
  | .inx => .inx
  | .iny => .iny
  | .dex => .dex
  | .dey => .dey
  | .and _ => .and
  | .ora _ => .ora
  | .eor _ => .eor
  | .bit _ => .bit
  | .asl _ => .asl
  | .lsr _ => .lsr
  | .rol _ => .rol
  | .ror _ => .ror
  | .jmpAbs _ => .jmp
  | .jmpInd _ => .jmp
  | .jsr _ => .jsr
  | .rts => .rts
  | .rti => .rti
  | .bpl _ => .bpl
  | .bmi _ => .bmi
  | .bvc _ => .bvc
  | .bvs _ => .bvs
  | .bcc _ => .bcc
  | .bcs _ => .bcs
  | .bne _ => .bne
  | .beq _ => .beq
  | .brk => .brk
  | .nop => .nop
  | .clc => .clc
  | .sec => .sec
  | .cli => .cli
  | .sei => .sei
  | .clv => .clv
  | .cld => .cld
  | .sed => .sed
  | .nopImp _ => .nop
  | .nopImm _ _ => .nop
  | .nopMem _ _ => .nop
  | .slo _ => .slo
  | .rla _ => .rla
  | .sre _ => .sre
  | .rra _ => .rra
  | .sax _ => .sax
  | .lax _ => .lax
  | .dcp _ => .dcp
  | .isb _ => .isb
  | .anc _ _ => .anc
  | .alr _ => .alr
  | .arr _ => .arr
  | .axs _ => .axs
  | .sbcEB _ => .sbc
  | .las _ => .las
  | .xaa _ => .xaa
  | .lxa _ => .lxa
  | .ahx _ => .ahx
  | .tas _ => .tas
  | .shy _ => .shy
  | .shx _ => .shx
  | .jam _ => .jam

/-- The opcode of a mnemonic at a mode, from the row of R152 written as a list of (mode, opcode). -/
def pick (row : List (Mode × Byte)) (o : Operand) : Option Byte := row.lookup o.mode

/-- The opcode byte of an instruction (R152); none for a term that is no instruction. -/
def Instr.opcode : Instr → Option Byte
  | .lda o => pick [(.imm, 0xA9), (.zp, 0xA5), (.zpx, 0xB5), (.abs, 0xAD), (.absx, 0xBD),
      (.absy, 0xB9), (.indx, 0xA1), (.indy, 0xB1)] o
  | .ldx o => pick [(.imm, 0xA2), (.zp, 0xA6), (.zpy, 0xB6), (.abs, 0xAE), (.absy, 0xBE)] o
  | .ldy o => pick [(.imm, 0xA0), (.zp, 0xA4), (.zpx, 0xB4), (.abs, 0xAC), (.absx, 0xBC)] o
  | .sta o => pick [(.zp, 0x85), (.zpx, 0x95), (.abs, 0x8D), (.absx, 0x9D),
      (.absy, 0x99), (.indx, 0x81), (.indy, 0x91)] o
  | .stx o => pick [(.zp, 0x86), (.zpy, 0x96), (.abs, 0x8E)] o
  | .sty o => pick [(.zp, 0x84), (.zpx, 0x94), (.abs, 0x8C)] o
  | .tax => some 0xAA
  | .tay => some 0xA8
  | .txa => some 0x8A
  | .tya => some 0x98
  | .tsx => some 0xBA
  | .txs => some 0x9A
  | .pha => some 0x48
  | .php => some 0x08
  | .pla => some 0x68
  | .plp => some 0x28
  | .adc o => pick [(.imm, 0x69), (.zp, 0x65), (.zpx, 0x75), (.abs, 0x6D), (.absx, 0x7D),
      (.absy, 0x79), (.indx, 0x61), (.indy, 0x71)] o
  | .sbc o => pick [(.imm, 0xE9), (.zp, 0xE5), (.zpx, 0xF5), (.abs, 0xED), (.absx, 0xFD),
      (.absy, 0xF9), (.indx, 0xE1), (.indy, 0xF1)] o
  | .cmp o => pick [(.imm, 0xC9), (.zp, 0xC5), (.zpx, 0xD5), (.abs, 0xCD), (.absx, 0xDD),
      (.absy, 0xD9), (.indx, 0xC1), (.indy, 0xD1)] o
  | .cpx o => pick [(.imm, 0xE0), (.zp, 0xE4), (.abs, 0xEC)] o
  | .cpy o => pick [(.imm, 0xC0), (.zp, 0xC4), (.abs, 0xCC)] o
  | .inc o => pick [(.zp, 0xE6), (.zpx, 0xF6), (.abs, 0xEE), (.absx, 0xFE)] o
  | .dec o => pick [(.zp, 0xC6), (.zpx, 0xD6), (.abs, 0xCE), (.absx, 0xDE)] o
  | .inx => some 0xE8
  | .iny => some 0xC8
  | .dex => some 0xCA
  | .dey => some 0x88
  | .and o => pick [(.imm, 0x29), (.zp, 0x25), (.zpx, 0x35), (.abs, 0x2D), (.absx, 0x3D),
      (.absy, 0x39), (.indx, 0x21), (.indy, 0x31)] o
  | .ora o => pick [(.imm, 0x09), (.zp, 0x05), (.zpx, 0x15), (.abs, 0x0D), (.absx, 0x1D),
      (.absy, 0x19), (.indx, 0x01), (.indy, 0x11)] o
  | .eor o => pick [(.imm, 0x49), (.zp, 0x45), (.zpx, 0x55), (.abs, 0x4D), (.absx, 0x5D),
      (.absy, 0x59), (.indx, 0x41), (.indy, 0x51)] o
  | .bit o => pick [(.zp, 0x24), (.abs, 0x2C)] o
  | .asl o => pick [(.acc, 0x0A), (.zp, 0x06), (.zpx, 0x16), (.abs, 0x0E), (.absx, 0x1E)] o
  | .lsr o => pick [(.acc, 0x4A), (.zp, 0x46), (.zpx, 0x56), (.abs, 0x4E), (.absx, 0x5E)] o
  | .rol o => pick [(.acc, 0x2A), (.zp, 0x26), (.zpx, 0x36), (.abs, 0x2E), (.absx, 0x3E)] o
  | .ror o => pick [(.acc, 0x6A), (.zp, 0x66), (.zpx, 0x76), (.abs, 0x6E), (.absx, 0x7E)] o
  | .jmpAbs _ => some 0x4C
  | .jmpInd _ => some 0x6C
  | .jsr _ => some 0x20
  | .rts => some 0x60
  | .rti => some 0x40
  | .bpl _ => some 0x10
  | .bmi _ => some 0x30
  | .bvc _ => some 0x50
  | .bvs _ => some 0x70
  | .bcc _ => some 0x90
  | .bcs _ => some 0xB0
  | .bne _ => some 0xD0
  | .beq _ => some 0xF0
  | .brk => some 0x00
  | .nop => some 0xEA
  | .clc => some 0x18
  | .sec => some 0x38
  | .cli => some 0x58
  | .sei => some 0x78
  | .clv => some 0xB8
  | .cld => some 0xD8
  | .sed => some 0xF8
  | .nopImp op => if op ∈ nopImpOpcodes then some op else none
  | .nopImm op _ => if op ∈ nopImmOpcodes then some op else none
  | .nopMem op o => if op ∈ nopMemOpcodes o.mode then some op else none
  | .slo o => pick [(.zp, 0x07), (.zpx, 0x17), (.abs, 0x0F), (.absx, 0x1F),
      (.absy, 0x1B), (.indx, 0x03), (.indy, 0x13)] o
  | .rla o => pick [(.zp, 0x27), (.zpx, 0x37), (.abs, 0x2F), (.absx, 0x3F),
      (.absy, 0x3B), (.indx, 0x23), (.indy, 0x33)] o
  | .sre o => pick [(.zp, 0x47), (.zpx, 0x57), (.abs, 0x4F), (.absx, 0x5F),
      (.absy, 0x5B), (.indx, 0x43), (.indy, 0x53)] o
  | .rra o => pick [(.zp, 0x67), (.zpx, 0x77), (.abs, 0x6F), (.absx, 0x7F),
      (.absy, 0x7B), (.indx, 0x63), (.indy, 0x73)] o
  | .sax o => pick [(.zp, 0x87), (.zpy, 0x97), (.abs, 0x8F), (.indx, 0x83)] o
  | .lax o => pick [(.zp, 0xA7), (.zpy, 0xB7), (.abs, 0xAF), (.absy, 0xBF),
      (.indx, 0xA3), (.indy, 0xB3)] o
  | .dcp o => pick [(.zp, 0xC7), (.zpx, 0xD7), (.abs, 0xCF), (.absx, 0xDF),
      (.absy, 0xDB), (.indx, 0xC3), (.indy, 0xD3)] o
  | .isb o => pick [(.zp, 0xE7), (.zpx, 0xF7), (.abs, 0xEF), (.absx, 0xFF),
      (.absy, 0xFB), (.indx, 0xE3), (.indy, 0xF3)] o
  | .anc op _ => if op ∈ ancOpcodes then some op else none
  | .alr _ => some 0x4B
  | .arr _ => some 0x6B
  | .axs _ => some 0xCB
  | .sbcEB _ => some 0xEB
  | .las _ => some 0xBB
  | .xaa _ => some 0x8B
  | .lxa _ => some 0xAB
  | .ahx o => pick [(.absy, 0x9F), (.indy, 0x93)] o
  | .tas _ => some 0x9B
  | .shy _ => some 0x9C
  | .shx _ => some 0x9E
  | .jam op => if op ∈ jamOpcodes then some op else none

/-- The bytes of an operand after the opcode, the low byte first (R126). -/
def Operand.bytes : Operand → List Byte
  | .acc => []
  | .imm b => [b]
  | .zp b => [b]
  | .zpx b => [b]
  | .zpy b => [b]
  | .abs w => [lo8 w, hi8 w]
  | .absx w => [lo8 w, hi8 w]
  | .absy w => [lo8 w, hi8 w]
  | .ind w => [lo8 w, hi8 w]
  | .indx b => [b]
  | .indy b => [b]
  | .rel b => [b]

/-- The operand bytes of an instruction (R126). -/
def Instr.operandBytes : Instr → List Byte
  | .lda o => o.bytes
  | .ldx o => o.bytes
  | .ldy o => o.bytes
  | .sta o => o.bytes
  | .stx o => o.bytes
  | .sty o => o.bytes
  | .tax => []
  | .tay => []
  | .txa => []
  | .tya => []
  | .tsx => []
  | .txs => []
  | .pha => []
  | .php => []
  | .pla => []
  | .plp => []
  | .adc o => o.bytes
  | .sbc o => o.bytes
  | .cmp o => o.bytes
  | .cpx o => o.bytes
  | .cpy o => o.bytes
  | .inc o => o.bytes
  | .dec o => o.bytes
  | .inx => []
  | .iny => []
  | .dex => []
  | .dey => []
  | .and o => o.bytes
  | .ora o => o.bytes
  | .eor o => o.bytes
  | .bit o => o.bytes
  | .asl o => o.bytes
  | .lsr o => o.bytes
  | .rol o => o.bytes
  | .ror o => o.bytes
  | .jmpAbs w => [lo8 w, hi8 w]
  | .jmpInd w => [lo8 w, hi8 w]
  | .jsr w => [lo8 w, hi8 w]
  | .rts => []
  | .rti => []
  | .bpl b => [b]
  | .bmi b => [b]
  | .bvc b => [b]
  | .bvs b => [b]
  | .bcc b => [b]
  | .bcs b => [b]
  | .bne b => [b]
  | .beq b => [b]
  | .brk => []
  | .nop => []
  | .clc => []
  | .sec => []
  | .cli => []
  | .sei => []
  | .clv => []
  | .cld => []
  | .sed => []
  | .nopImp _ => []
  | .nopImm _ b => [b]
  | .nopMem _ o => o.bytes
  | .slo o => o.bytes
  | .rla o => o.bytes
  | .sre o => o.bytes
  | .rra o => o.bytes
  | .sax o => o.bytes
  | .lax o => o.bytes
  | .dcp o => o.bytes
  | .isb o => o.bytes
  | .anc _ b => [b]
  | .alr b => [b]
  | .arr b => [b]
  | .axs b => [b]
  | .sbcEB b => [b]
  | .las w => [lo8 w, hi8 w]
  | .xaa b => [b]
  | .lxa b => [b]
  | .ahx o => o.bytes
  | .tas w => [lo8 w, hi8 w]
  | .shy w => [lo8 w, hi8 w]
  | .shx w => [lo8 w, hi8 w]
  | .jam _ => []

/-- The encoder: the bytes of a well-formed instruction, and no bytes for a term that is no instruction. -/
def encode (i : Instr) : List Byte :=
  match i.opcode with
  | some op => op :: i.operandBytes
  | none => []

/-- The base cycle cost of an instruction, from its row (R122, R152). A term that is no instruction has no row
and costs nothing (log 18). -/
def Instr.baseCycles (i : Instr) : Nat :=
  match i.opcode with
  | some op => (descriptor op).baseCycles
  | none => 0

/-- Whether an instruction is page-boundary-sensitive, from its row (R151). -/
def Instr.pagePenalty (i : Instr) : Bool :=
  match i.opcode with
  | some op => (descriptor op).pagePenalty
  | none => false

/-- Whether an instruction's row is implemented, that is, not behind the unimplemented marker (R124, R153). -/
def Instr.implemented (i : Instr) : Bool :=
  match i.opcode with
  | some op => (descriptor op).implemented
  | none => false

/-- By how much a step advances PC before the semantics run: past the operand bytes (R121), but past the opcode
byte only where the row is unimplemented (R120, R401). -/
def Descriptor.consumed (d : Descriptor) : Nat := if d.implemented then d.length else 1

/-- Whether the step reads a row's operand bytes on the bus: not behind the unimplemented marker, which raises
before any operand byte is read (R124), and not for the immediate NOPs, whose byte is consumed and never read
(R332, D26). -/
def Descriptor.readsOperands (d : Descriptor) : Bool :=
  d.implemented && !(decide (d.mnemonic = .nop) && decide (d.mode = .imm))

/-- The `n` low-order bytes of `w`, the lowest first. -/
def bytesOfNat : Nat → Nat → List Byte
  | 0, _ => []
  | n + 1, w => BitVec.ofNat 8 w :: bytesOfNat n (w / 256)

/-- What the decoder reads from an instruction given as one number, bit 0 the least significant bit of the first
byte, the bits above `nbits` being 0 (up to three bytes, the longest instruction). -/
def decodeTableWord (nbits w : Nat) : Option Instr :=
  match decode (bytesOfNat 3 (w % 2 ^ nbits)) with
  | .ok (i, _) => some i
  | .error _ => none

end Sys2Proof
end

