-- ==== Sys2Proof/Config.lean ====
section
/-! DEFINITION. The named parameters of R9 at the values the spec gives them, and the free values: the
answers of the external agents (R99, D37) and of IRQ_LINE (R418, D8), which nothing constrains. -/

namespace Sys2Proof.Config

/-- RAM_SIZE (R9): the RAM has 0x0800 cells. -/
def ramSize : Nat := 0x0800

/-- RAM_WINDOW (R9, R82): the last address of the RAM mirror window. -/
def ramWindowEnd : Word := 0x1FFF

/-- The mask that takes an address of the RAM window to its cell (R82). -/
def ramMask : Word := 0x07FF

/-- PPU_WINDOW (R9, R86): the first address of the video window. -/
def videoBase : Word := 0x2000

/-- PPU_WINDOW (R9, R86): the last address of the video window. -/
def videoWindowEnd : Word := 0x3FFF

/-- The mask that takes an address of the video window to its canonical register (R86). -/
def videoMask : Word := 0x2007

/-- PPU_STATUS (R9, R84). -/
def videoStatus : Word := 0x2002

/-- PPU_OAMDATA (R9, R84). -/
def videoOamData : Word := 0x2004

/-- PPU_DATA (R9, R84). -/
def videoData : Word := 0x2007

/-- CTRL_PORT (R9, R83). -/
def controllerPort : Word := 0x4016

/-- DMA_PORT (R9, R87). -/
def dmaPort : Word := 0x4014

/-- ROM_BASE (R9, R88): the first address of the program-ROM window, which runs to 0xFFFF. -/
def romBase : Word := 0x8000

/-- HALF_BANK (R9, R88), in bytes. -/
def halfBank : Nat := 0x4000

/-- The full bank's length (R9, R88), in bytes. -/
def fullBank : Nat := 0x8000

/-- STACK_BASE (R9, R100). -/
def stackBase : Word := 0x0100

/-- VEC_NMI (R9, R410). -/
def vecNmi : Word := 0xFFFA

/-- VEC_RESET (R9, R451). -/
def vecReset : Word := 0xFFFC

/-- VEC_IRQ (R9, R410). -/
def vecIrq : Word := 0xFFFE

/-- NMI_CYCLES (R9, R410). -/
def nmiCycles : Nat := 2

/-- IRQ_CYCLES (R9, R410). -/
def irqCycles : Nat := 2

/-- RESET_CYCLES (R9, D7). -/
def resetCycles : Nat := 7

/-- SP_RESET (R9, D4). -/
def spReset : Byte := 0xFD

/-- The values the parameter P_RESET takes (R9, D3, U9). It is an input fixed for a run, and so an argument of
every operation that constructs or resets a CPU. -/
inductive PReset where
  /-- B is set: the default. -/
  | bSet
  /-- B is clear: the alternative, for an implementation whose B is not stored. -/
  | bClear
  deriving DecidableEq, Repr

/-- P_RESET as a status byte (R9, U9): U and I set, and B as the parameter says. -/
def PReset.value : PReset → BitVec 8
  | .bSet => 0x34
  | .bClear => 0x24

/-- TICKS_PER_CYCLE (R9, R78). -/
def ticksPerCycle : Nat := 3

/-- LOAD_BASE (R9, D21). -/
def loadBase : Word := 0x8000

/-- What a cell of RAM, or of the program ROM, that a memory does not list holds. For RAM it is the
default of RAM_INIT (R9, D22). For the program ROM of a machine to which no cartridge contents were
given it is a DESIGN CHOICE (unsafe), log 5. -/
def unlistedByte : Byte := 0x00

/-- FREE VALUE: the byte the video unit answers to the `n`-th answered request (R95, R99, U3). Log 1. -/
opaque videoAnswer : Nat → BitVec 8

/-- FREE VALUE: the byte the controller answers to the `n`-th answered request (R98, R99, U5). Log 1. -/
opaque controllerAnswer : Nat → BitVec 8

/-- FREE VALUE: the video unit's answer to the NMI poll that is the `n`-th answered request (R411, U4). Log 1. -/
opaque nmiAnswer : Nat → Bool

/-- FREE VALUE: the answer of IRQ_LINE when asked as the `n`-th answered request (R418, U7). Log 13. -/
opaque irqAnswer : Nat → Bool

end Sys2Proof.Config
end

