-- ==== Sys2Proof/Machine/State.lean ====
section
/-! DEFINITION. The machine's state as plain data (10_state.md), the faults and refusals, and the state after
reset. -/

namespace Sys2Proof.Machine

/-- The two interrupt kinds (R37, R410). -/
inductive IrqKind where
  /-- The non-maskable interrupt. -/
  | nmi
  /-- The maskable interrupt. -/
  | irq
  deriving DecidableEq, Repr

/-- The core's faults (R400), each with the information the spec records. A fault is first RECORDED, by a next
state whose `fault` field holds it (R403); it is an outcome of `step` when the record was already set before
the step, since such a CPU takes no further step (R38). Log 3. -/
inductive Fault where
  /-- Fault 1 (R401). Raised by the seven meanings of the opcodes behind the unimplemented marker: the opcode
  byte and the address it was fetched from. Safe: the spec's own fault (U1). -/
  | unimplementedOpcode (op : Byte) (pc0 : Word)
  /-- Fault 2 (R402). Raised by a bus write into the ROM window: the address and the byte. Safe: the spec's own
  fault (U2). -/
  | illegalRomWrite (addr : Word) (value : Byte)
  deriving DecidableEq, Repr

/-- Why an operation is refused. No meaning of an instruction refuses. -/
inductive Refusal where
  /-- Raised by an arm of `exec` whose instruction has no meaning in this model (none has this arm). Safe. -/
  | notModelled (mnemonic : String)
  /-- Raised by the construction of a bus, or the replacement of its cartridge, with a program ROM of neither
  bank length (R455, R458, U10): a host error before any step. Safe: the spec's own refusal. -/
  | badProgramLength (length : Nat)
  /-- Raised by `load` of more bytes than the program ROM holds (R457, U11): a host error before any state
  changes. Safe: the spec's own refusal. -/
  | programTooLong (length : Nat)
  deriving DecidableEq, Repr

/-- A forwarded access, a tick or a poll, with its arguments (R99). -/
inductive Event where
  /-- `VideoRead(r)` (R95). -/
  | videoRead (r : Word)
  /-- `VideoWrite(r, v)` (R96). -/
  | videoWrite (r : Word) (v : Byte)
  /-- `VideoOamDmaWrite(b)` (R97). -/
  | videoOamDmaWrite (b : Byte)
  /-- `VideoTick(n)` (R78, R97). -/
  | videoTick (n : Nat)
  /-- `VideoNmiPoll()` (R97, R431). -/
  | videoNmiPoll
  /-- `CtrlRead()` (R98). -/
  | ctrlRead
  /-- `CtrlWrite(v)` (R98). -/
  | ctrlWrite (v : Byte)
  deriving DecidableEq, Repr

/-- The two program-ROM lengths (R88, R9). -/
inductive Bank where
  /-- PRG_LEN = 0x4000. -/
  | half
  /-- PRG_LEN = 0x8000. -/
  | full
  deriving DecidableEq, Repr

/-- A sparse array of bytes: pairs of an index and a byte, in the canonical form `Memory.wf` says. -/
abbrev Memory := List Host.Cell

/-- The machine's state. `stopped` and `draws` are the model's own fields; every other field is state the spec
names. -/
structure State where
  /-- A, the accumulator (R20). -/
  a : Byte
  /-- X, index register X (R21). -/
  x : Byte
  /-- Y, index register Y (R22). -/
  y : Byte
  /-- SP, the stack pointer: an offset into page 1 (R23). -/
  sp : Byte
  /-- P, the status register (R25, R27). -/
  p : Byte
  /-- PC, the program counter (R24). -/
  pc : Word
  /-- The running cycle counter (R36). -/
  cycles : Nat
  /-- The pending-interrupt marker (R37). -/
  pending : Option IrqKind
  /-- The fault record (R38). -/
  fault : Option Fault
  /-- MODEL'S OWN: the last step() returned false, that is, it executed BRK (R120, R304). Log 4. -/
  stopped : Bool
  /-- RAM, by index 0 to 0x07FF (R39, R82). -/
  ram : Memory
  /-- PRG, the program ROM, by offset (R39, R88). -/
  prg : Memory
  /-- Which of the two lengths PRG has (R88). -/
  bank : Bank
  /-- CHR, the character ROM, handed to the video unit and on no CPU address (R39, D36). -/
  chr : List Byte
  /-- MIRRORING, the cartridge's tag, handed to the video unit (R39, D36). The spec names no values of it; the
  tag is held as a number (log 19). -/
  mirroring : Nat
  /-- MODEL'S OWN: how many free answers have been used (R99). Log 1. -/
  draws : Nat
  /-- The recorded history of forwarded accesses, ticks and polls, newest first (R99). Log 2. -/
  events : List Event
  deriving DecidableEq, Repr

/-- The machine right after reset (R40, R451): a bus constructed with RAM_INIT at its default and a full bank of
program ROM of which nothing is listed, a CPU constructed around it, and reset, with P_RESET at its default (U9).
PC is the word the reset vector then holds, 0x0000 (log 5). -/
def State.reset : State :=
  { a := 0x00
    x := 0x00
    y := 0x00
    sp := Config.spReset
    p := Config.PReset.bSet.value
    pc := 0x0000
    cycles := Config.resetCycles
    pending := none
    fault := none
    stopped := false
    ram := []
    prg := []
    bank := .full
    chr := []
    mirroring := 0
    draws := 0
    events := [.videoTick (Config.ticksPerCycle * Config.resetCycles)] }

end Sys2Proof.Machine
end

