-- ==== Sys2Proof/Machine/Flags.lean ====
section
/-! DEFINITION. The status register as a byte with named bits (R25 to R34), and the flag computations: SetNZ,
the addition of R240 and the comparison of R243, as functions of bytes. -/

namespace Sys2Proof.Machine

/-- The flags an instruction can write. The unused bit U is not among them: it is hardwired to 1 and every write
to it is ignored (R28). -/
inductive Flag where
  | n | v | b | d | i | z | c
  deriving DecidableEq, Repr

/-- The bit position of a flag (R27, D1). -/
def Flag.bit : Flag → Nat
  | .n => 7
  | .v => 6
  | .b => 4
  | .d => 3
  | .i => 2
  | .z => 1
  | .c => 0

/-- The byte that has only the flag's bit. -/
def Flag.mask : Flag → Byte
  | .n => 0x80
  | .v => 0x40
  | .b => 0x10
  | .d => 0x08
  | .i => 0x04
  | .z => 0x02
  | .c => 0x01

/-- Bit U of P, the unused bit (R27). -/
def unusedBit : Nat := 5

/-- P with one flag set or cleared and every other bit, U among them, as it was (R25). -/
def withFlag (f : Flag) (v : Bool) (p : Byte) : Byte :=
  if v then p ||| f.mask else p &&& ~~~f.mask

/-- SetNZ(v) on a status byte (R33). -/
def withNZ (v : Byte) (p : Byte) : Byte :=
  withFlag .n (v.getLsbD 7) (withFlag .z (decide (v = 0)) p)

/-- Raw-byte import of P, by PLP and RTI (R34): B cleared, U set, the other six bits from the byte. -/
def importP (v : Byte) : Byte := (v &&& 0xCF) ||| 0x20

/-- Raw-byte export of P, by PHP and interrupt entry (R34): B and U set in the byte. -/
def exportP (p : Byte) : Byte := p ||| 0x30

/-- The result of an addition or subtraction: the byte, the carry and the overflow. -/
structure Sum where
  result : Byte
  carry : Bool
  overflow : Bool
  deriving DecidableEq, Repr

/-- `sum16` of R240: an unbounded natural, 0 to 0x1FF. -/
def sum16 (a b : Byte) (carry : Bool) : Nat := a.toNat + b.toNat + carry.toNat

/-- The addition of R240: the low 8 bits of `sum16`, the carry out, and the sign change without carry. -/
def addBytes (a b : Byte) (carry : Bool) : Sum :=
  let r : Byte := BitVec.ofNat 8 (sum16 a b carry)
  { result := r
    carry := decide (sum16 a b carry > 0xFF)
    overflow := ((r ^^^ a) &&& (r ^^^ b)).getLsbD 7 }

/-- P after the comparison of R243: C if there is no borrow, Z if equal, N from the difference, V untouched. -/
def compareFlags (reg v p : Byte) : Byte :=
  withFlag .n ((reg - v).getLsbD 7)
    (withFlag .z (decide (reg = v)) (withFlag .c (decide (v.toNat ≤ reg.toNat)) p))

/-- The bit of a carry that enters a rotate at the bottom (R276). -/
def carryIn0 (c : Bool) : Byte := if c then 0x01 else 0x00

/-- The bit of a carry that enters a rotate at the top (R277). -/
def carryIn7 (c : Bool) : Byte := if c then 0x80 else 0x00

/-- ASL's result, `(v * 2) mod 256` (R274). -/
def shiftLeft (v : Byte) : Byte := v * 2

/-- LSR's result, `v div 2` (R275). -/
def shiftRight (v : Byte) : Byte := v / 2

/-- ROL's result: the old carry enters bit 0 (R276). -/
def rotateLeft (v : Byte) (c : Bool) : Byte := shiftLeft v ||| carryIn0 c

/-- ROR's result: the old carry enters bit 7 (R277). -/
def rotateRight (v : Byte) (c : Bool) : Byte := shiftRight v ||| carryIn7 c

end Sys2Proof.Machine
end

