-- ==== Sys2Proof/Machine/Ops.lean ====
section
/-! DEFINITION. The named operations over registers, memory and the bus (20_memory.md), the cycle charge (R78),
faults (R400), interrupt entry (R412) and the return from it (R295). -/

namespace Sys2Proof.Machine

/-! ### Sparse arrays -/

/-- The byte at index `k`: the first entry for it, or what an unlisted cell holds. -/
def Memory.read : Memory → Nat → Byte
  | [], _ => Config.unlistedByte
  | (j, b) :: m, k => if j = k then b else Memory.read m k

/-- The entries of `m` but those for index `k`. -/
def Memory.erase : Memory → Nat → Memory
  | [], _ => []
  | (j, b) :: m, k => if j = k then Memory.erase m k else (j, b) :: Memory.erase m k

/-- An entry put before the first one with a higher index. -/
def Memory.insert : Memory → Nat → Byte → Memory
  | [], k, v => [(k, v)]
  | (j, b) :: m, k, v => if k < j then (k, v) :: (j, b) :: m else (j, b) :: Memory.insert m k v

/-- The array with the byte at index `k` replaced; a byte equal to what an unlisted cell holds is not listed. -/
def Memory.write (m : Memory) (k : Nat) (v : Byte) : Memory :=
  if v = Config.unlistedByte then m.erase k else (m.erase k).insert k v

/-- The canonical form from index `lo` on: indexes strictly rising and below `size`, and no entry equal to what
an unlisted cell holds. -/
def Memory.wfFrom (size : Nat) : Nat → Memory → Bool
  | _, [] => true
  | lo, (j, b) :: m =>
    decide (lo ≤ j) && decide (j < size) && decide (b ≠ Config.unlistedByte) && Memory.wfFrom size (j + 1) m

/-- The canonical form of an array of `size` bytes: equal arrays are equal lists. -/
def Memory.wf (size : Nat) (m : Memory) : Bool := Memory.wfFrom size 0 m

/-- The array whose cells from index `k` on hold the bytes of a list, over an array that lists nothing below
that. -/
def Memory.ofBytesFrom : Nat → List Byte → Memory
  | _, [] => []
  | k, b :: bs =>
    if b = Config.unlistedByte then Memory.ofBytesFrom (k + 1) bs else (k, b) :: Memory.ofBytesFrom (k + 1) bs

/-- The array of a list of bytes. -/
def Memory.ofBytes (bs : List Byte) : Memory := Memory.ofBytesFrom 0 bs

/-- The length of a bank in bytes, PRG_LEN (R88). -/
def Bank.size : Bank → Nat
  | .half => Config.halfBank
  | .full => Config.fullBank

/-! ### Registers and flags -/

/-- A with a value written. -/
def State.setA (v : Byte) (s : State) : State := { s with a := v }
/-- X with a value written. -/
def State.setX (v : Byte) (s : State) : State := { s with x := v }
/-- Y with a value written. -/
def State.setY (v : Byte) (s : State) : State := { s with y := v }
/-- SP with a value written. -/
def State.setSp (v : Byte) (s : State) : State := { s with sp := v }
/-- P with a whole byte written. -/
def State.setP (v : Byte) (s : State) : State := { s with p := v }
/-- PC with a value written. -/
def State.setPc (v : Word) (s : State) : State := { s with pc := v }
/-- The pending-interrupt marker written. -/
def State.setPending (v : Option IrqKind) (s : State) : State := { s with pending := v }
/-- The stop signal written. -/
def State.setStopped (v : Bool) (s : State) : State := { s with stopped := v }
/-- RAM replaced. -/
def State.setRam (m : Memory) (s : State) : State := { s with ram := m }
/-- PRG replaced. -/
def State.setPrg (m : Memory) (s : State) : State := { s with prg := m }
/-- An event added to the history (R99). -/
def State.record (e : Event) (s : State) : State := { s with events := e :: s.events }
/-- One free answer used. -/
def State.drawn (s : State) : State := { s with draws := s.draws + 1 }
/-- `raise F` (R400): the fault record is set; what else the step or operation would do is left out by the
caller (R403). -/
def State.raise (f : Fault) (s : State) : State := { s with fault := some f }

/-- A flag of P (R27). -/
def State.flag (s : State) (f : Flag) : Bool := s.p.getLsbD f.bit

/-- Bit U of P, hardwired to 1 (R28). -/
def State.unused (s : State) : Bool := s.p.getLsbD unusedBit

/-- A flag of P written. -/
def State.setFlag (f : Flag) (v : Bool) (s : State) : State := s.setP (withFlag f v s.p)

/-- SetNZ(v) (R33). -/
def State.setNZ (v : Byte) (s : State) : State := s.setP (withNZ v s.p)

/-- A loaded with `v`, and Z and N set from it. -/
def State.loadA (v : Byte) (s : State) : State := (s.setA v).setNZ v
/-- X loaded with `v`, and Z and N set from it. -/
def State.loadX (v : Byte) (s : State) : State := (s.setX v).setNZ v
/-- Y loaded with `v`, and Z and N set from it. -/
def State.loadY (v : Byte) (s : State) : State := (s.setY v).setNZ v

/-- AddWithCarry(b) (R240). -/
def State.addWithCarry (b : Byte) (s : State) : State :=
  let r := addBytes s.a b (s.flag .c)
  (((s.setFlag .c r.carry).setFlag .v r.overflow).setA r.result).setNZ r.result

/-- Compare(reg, v) (R243). -/
def State.compare (reg v : Byte) (s : State) : State := s.setP (compareFlags reg v s.p)

/-! ### The address decoder -/

/-- Where a read goes (R80, R91). -/
inductive ReadTarget where
  /-- RAM at an index (R82). -/
  | ram (index : Nat)
  /-- The controller port (R83). -/
  | controller
  /-- A readable video register, by its canonical address (R84, R86). -/
  | video (r : Word)
  /-- Program ROM (R88). -/
  | rom
  /-- Nothing answers: 0x00 (R84, R90, D16). -/
  | zero
  deriving DecidableEq, Repr

/-- The RAM cell of an address of the RAM window (R82). -/
def ramIndex (a : Word) : Nat := (a &&& Config.ramMask).toNat

/-- The canonical address of a video register (R86). -/
def canonicalVideo (a : Word) : Word := a &&& Config.videoMask

/-- The three readable video registers (R84). -/
def readableVideo (r : Word) : Bool :=
  decide (r = Config.videoStatus) || decide (r = Config.videoOamData) || decide (r = Config.videoData)

/-- The address is in the RAM window (R82). -/
def inRam (a : Word) : Bool := decide (a.toNat ≤ Config.ramWindowEnd.toNat)

/-- The address is in the video window (R86). -/
def inVideo (a : Word) : Bool :=
  decide (Config.videoBase.toNat ≤ a.toNat) && decide (a.toNat ≤ Config.videoWindowEnd.toNat)

/-- The address is in the ROM window (R88). -/
def inRom (a : Word) : Bool := decide (Config.romBase.toNat ≤ a.toNat)

/-- The decoder of a read, in the priority order of R80. -/
def readTarget (a : Word) : ReadTarget :=
  if inRam a then .ram (ramIndex a)
  else if a = Config.controllerPort then .controller
  else if readableVideo a then .video a
  else if inVideo a then
    if readableVideo (canonicalVideo a) then .video (canonicalVideo a) else .zero
  else if inRom a then .rom
  else .zero

/-- Where a write goes (R81, R91). -/
inductive WriteTarget where
  /-- RAM at an index (R82). -/
  | ram (index : Nat)
  /-- The controller port (R83). -/
  | controller
  /-- A video register, by its canonical address (R85, R86). -/
  | video (r : Word)
  /-- The sprite-DMA trigger (R87). -/
  | oamDma
  /-- The ROM window: a fault (R89). -/
  | rom
  /-- Nothing takes it: dropped (R90). -/
  | dropped
  deriving DecidableEq, Repr

/-- The decoder of a write, in the priority order of R81. -/
def writeTarget (a : Word) : WriteTarget :=
  if inRam a then .ram (ramIndex a)
  else if a = Config.controllerPort then .controller
  else if inVideo a then .video (canonicalVideo a)
  else if a = Config.dmaPort then .oamDma
  else if inRom a then .rom
  else .dropped

/-- RomOffset(a), for an address of the ROM window (R88). -/
def romOffset (k : Bank) (a : Word) : Nat :=
  match k with
  | .full => (a - Config.romBase).toNat
  | .half => (a - Config.romBase).toNat % Config.halfBank

/-! ### Bus accesses -/

/-- BusRead(a) (R80): the byte read, and the state after the access. -/
def busRead (a : Word) (s : State) : Byte × State :=
  match readTarget a with
  | .ram i => (s.ram.read i, s)
  | .controller => (Config.controllerAnswer s.draws, s.drawn.record .ctrlRead)
  | .video r => (Config.videoAnswer s.draws, s.drawn.record (.videoRead r))
  | .rom => (s.prg.read (romOffset s.bank a), s)
  | .zero => (0x00, s)

/-- The byte that stands at an address without any access: RAM, program ROM, or the 0x00 of an address at which
nothing answers. At a forwarded address there is no such byte and this gives 0x00; no instruction's effect uses
it there. -/
def peek (s : State) (a : Word) : Byte :=
  match readTarget a with
  | .ram i => s.ram.read i
  | .rom => s.prg.read (romOffset s.bank a)
  | .controller => 0x00
  | .video _ => 0x00
  | .zero => 0x00

/-- MemRead(addr, 2) (R72): low byte first, the second address modulo 2^16. -/
def busRead16 (a : Word) (s : State) : Word × State :=
  let lo := busRead a s
  let hi := busRead (a + 1) lo.2
  (word16 hi.1 lo.1, hi.2)

/-- `n` bytes from address `a` on, each read with full decode and then forwarded to the video unit's
object-memory write path before the next is read (R87, D19). -/
def forwardBytes : Nat → Word → State → State
  | 0, _, s => s
  | n + 1, a, s =>
    let r := busRead a s
    forwardBytes n (a + 1) (r.2.record (.videoOamDmaWrite r.1))

/-- OamDma(v) (R87). -/
def oamDma (v : Byte) (s : State) : State := forwardBytes 256 (word16 v 0x00) s

/-- BusWrite(a, v) (R81). Into the ROM window it raises IllegalRomWrite (R89). -/
def busWrite (a : Word) (v : Byte) (s : State) : State :=
  match writeTarget a with
  | .ram i => s.setRam (s.ram.write i v)
  | .controller => s.record (.ctrlWrite v)
  | .video r => s.record (.videoWrite r v)
  | .oamDma => oamDma v s
  | .rom => s.raise (.illegalRomWrite a v)
  | .dropped => s

/-- Whether a write to an address raises (R89, R402). -/
def writeFaults (a : Word) : Bool := decide (writeTarget a = .rom)

/-- A bus write, then `k`, which a write that raises leaves out: `raise` ends the step at that point (R400,
R403). -/
def writeThen (a : Word) (v : Byte) (k : State → State) (s : State) : State :=
  if writeFaults a then busWrite a v s else k (busWrite a v s)

/-- MemWrite(addr, 2, w) (R73): low byte first; a raise by the first write leaves the second out. -/
def busWrite16 (a : Word) (w : Word) (s : State) : State :=
  writeThen a (lo8 w) (busWrite (a + 1) (hi8 w)) s

/-- A byte of PRG written by the host's backdoor, with no bus access (R457). -/
def writeRom (a : Word) (v : Byte) (s : State) : State := s.setPrg (s.prg.write (romOffset s.bank a) v)

/-! ### The stack -/

/-- The address SP designates, in page 1 (R23, R100). -/
def stackAddr (sp : Byte) : Word := Config.stackBase + sp.setWidth 16

/-- Push8(v) (R100). -/
def push8 (v : Byte) (s : State) : State :=
  let t := busWrite (stackAddr s.sp) v s
  t.setSp (t.sp - 1)

/-- Pop8() (R101): the byte, and the state after. -/
def pop8 (s : State) : Byte × State :=
  let t := s.setSp (s.sp + 1)
  busRead (stackAddr t.sp) t

/-- Push16(w) (R102): high byte, then low byte. -/
def push16 (w : Word) (s : State) : State := push8 (lo8 w) (push8 (hi8 w) s)

/-- Pop16() (R103): low byte, then high byte. -/
def pop16 (s : State) : Word × State :=
  let lo := pop8 s
  let hi := pop8 lo.2
  (word16 hi.1 lo.1, hi.2)

/-! ### Cycles -/

/-- Charge(n) (R78): the counter, then the video unit's ticks. -/
def charge (n : Nat) (s : State) : State :=
  ({ s with cycles := s.cycles + n } : State).record (.videoTick (Config.ticksPerCycle * n))

/-- The accounting of an instruction (R120 steps 5 and 6, R122): its base cost, one more if it is page-sensitive
and the addressing crossed a page, and its extra cycles. -/
def account (i : Instr) (crossed : Bool) (extra : Nat) (s : State) : State :=
  charge (i.baseCycles + (if i.pagePenalty && crossed then 1 else 0) + extra) s

/-! ### Interrupt entry and return -/

/-- The vector address of an interrupt kind (R410). -/
def IrqKind.vector : IrqKind → Word
  | .nmi => Config.vecNmi
  | .irq => Config.vecIrq

/-- The cycles an interrupt entry is charged (R410). -/
def IrqKind.cost : IrqKind → Nat
  | .nmi => Config.nmiCycles
  | .irq => Config.irqCycles

/-- Deliver(k), interrupt entry (R412): PC and then `P | 0x30` are pushed, I is set, the cost is charged, PC is
loaded from the vector, and the marker is written last. -/
def deliver (k : IrqKind) (s : State) : State :=
  let t := push8 (exportP s.p) (push16 s.pc s)
  let u := charge k.cost (t.setFlag .i true)
  let v := busRead16 k.vector u
  (v.2.setPc v.1).setPending (some k)

/-- The return from an interrupt (R295): P is popped with the raw import of R34, then PC, with no 1 added; the
pending marker is not touched. -/
def returnFromInterrupt (s : State) : State :=
  let v := pop8 s
  let w := pop16 (v.2.setP (importP v.1))
  w.2.setPc w.1

/-- The raise of an opcode behind the unimplemented marker (R120, R401). PC already stands at `pc0 + 1`. -/
def raiseUnimplemented (op : Byte) (s : State) : State := s.raise (.unimplementedOpcode op (s.pc - 1))

end Sys2Proof.Machine
end

