-- ==== Sys2Proof/Machine/Operands.lean ====
section
/-! DEFINITION. Address resolution for every mode (R130 to R141), operand load and store (R140), and the shapes
in which an instruction uses its operand: read, write, read-modify-write, branch, none. In all of them PC already
stands past the instruction (R13, R121). -/

namespace Sys2Proof.Machine

/-- A page-0 address as a 16-bit address (R134). -/
def zeroPage (b : Byte) : Word := b.setWidth 16

/-- The signed reading of an offset byte, extended to 16 bits (R10, R139). -/
def signExtend16 (b : Byte) : Word := b.signExtend 16

/-- The high byte changed: a page was crossed (R136, R138, R139). -/
def crosses (base ea : Word) : Bool := decide (hi8 ea ≠ hi8 base)

/-- The answer of Resolve, with the state after its reads: the resolved address (of no meaning for ACC, which has
none), and the page-crossed report (R130). -/
structure Resolved where
  ea : Word
  crossed : Bool
  state : State
  deriving DecidableEq, Repr

/-- A pointer read in page 0, low byte first, its high byte's address wrapping within page 0 (R137, R138, D24). -/
def zeroPagePointer (z : Byte) (s : State) : Word × State :=
  let lo := busRead (zeroPage z) s
  let hi := busRead (zeroPage (z + 1)) lo.2
  (word16 hi.1 lo.1, hi.2)

/-- The address of the second byte of JMP's pointer: it wraps within the pointer's page (R141). -/
def sameNextInPage (ptr : Word) : Word := (ptr &&& 0xFF00) ||| ((ptr + 1) &&& 0x00FF)

/-- The target read through JMP's pointer, with the page bug (R141). -/
def jumpPointer (ptr : Word) (s : State) : Word × State :=
  let lo := busRead ptr s
  let hi := busRead (sameNextInPage ptr) lo.2
  (word16 hi.1 lo.1, hi.2)

/-- Resolve(mode) (R130 to R141). The operand bytes were read by the fetch, and PC stands past them, so the
address of an immediate byte is `pc - 1` and the address of the next instruction is `pc`. -/
def resolve (o : Operand) (s : State) : Resolved :=
  match o with
  | .acc => ⟨0, false, s⟩
  | .imm _ => ⟨s.pc - 1, false, s⟩
  | .zp b => ⟨zeroPage b, false, s⟩
  | .zpx b => ⟨zeroPage (b + s.x), false, s⟩
  | .zpy b => ⟨zeroPage (b + s.y), false, s⟩
  | .abs w => ⟨w, false, s⟩
  | .absx w => ⟨w + s.x.setWidth 16, crosses w (w + s.x.setWidth 16), s⟩
  | .absy w => ⟨w + s.y.setWidth 16, crosses w (w + s.y.setWidth 16), s⟩
  | .ind ptr => ⟨(jumpPointer ptr s).1, false, (jumpPointer ptr s).2⟩
  | .indx b => ⟨(zeroPagePointer (b + s.x) s).1, false, (zeroPagePointer (b + s.x) s).2⟩
  | .indy b =>
    let base := zeroPagePointer b s
    ⟨base.1 + s.y.setWidth 16, crosses base.1 (base.1 + s.y.setWidth 16), base.2⟩
  | .rel b => ⟨s.pc + signExtend16 b, crosses s.pc (s.pc + signExtend16 b), s⟩

/-- Load(mode, ea) (R140). The immediate byte was read on the bus by the fetch, in the same order (R142, log 11). -/
def load (o : Operand) (ea : Word) (s : State) : Byte × State :=
  match o with
  | .acc => (s.a, s)
  | .imm b => (b, s)
  | .zp _ => busRead ea s
  | .zpx _ => busRead ea s
  | .zpy _ => busRead ea s
  | .abs _ => busRead ea s
  | .absx _ => busRead ea s
  | .absy _ => busRead ea s
  | .ind _ => busRead ea s
  | .indx _ => busRead ea s
  | .indy _ => busRead ea s
  | .rel _ => busRead ea s

/-- Store(mode, ea, v) (R140), then `k`, which a store that raises leaves out (R403). -/
def storeThen (o : Operand) (ea : Word) (v : Byte) (k : State → State) (s : State) : State :=
  match o with
  | .acc => k (s.setA v)
  | .imm _ => writeThen ea v k s
  | .zp _ => writeThen ea v k s
  | .zpx _ => writeThen ea v k s
  | .zpy _ => writeThen ea v k s
  | .abs _ => writeThen ea v k s
  | .absx _ => writeThen ea v k s
  | .absy _ => writeThen ea v k s
  | .ind _ => writeThen ea v k s
  | .indx _ => writeThen ea v k s
  | .indy _ => writeThen ea v k s
  | .rel _ => writeThen ea v k s

/-- An instruction that reads its operand: resolve, load, its effect `f` on the byte read, accounting. -/
def readInstr (i : Instr) (o : Operand) (f : Byte → State → State) (s : State) : State :=
  let r := resolve o s
  let l := load o r.ea r.state
  account i r.crossed 0 (f l.1 l.2)

/-- An instruction that stores `v` to its operand and does nothing else: resolve, store, accounting. -/
def writeInstr (i : Instr) (o : Operand) (v : Byte) (s : State) : State :=
  let r := resolve o s
  storeThen o r.ea v (account i r.crossed 0) r.state

/-- A read-modify-write instruction: one read, one write of the byte `f` makes of it, and then its effect `g` on
the byte read and the byte written, which a store that raises leaves out (R330, C12). -/
def modifyInstr (i : Instr) (o : Operand) (f : Byte → State → Byte) (g : Byte → Byte → State → State)
    (s : State) : State :=
  let r := resolve o s
  let l := load o r.ea r.state
  let v := f l.1 l.2
  storeThen o r.ea v (fun t => account i r.crossed 0 (g l.1 v t)) l.2

/-- Branch(cond) (R294). -/
def branchInstr (i : Instr) (offset : Byte) (cond : Bool) (s : State) : State :=
  let r := resolve (.rel offset) s
  if cond then account i false (1 + r.crossed.toNat) (r.state.setPc r.ea) else account i false 0 r.state

/-- An instruction without an operand: its effect `f`, accounting. -/
def plainInstr (i : Instr) (f : State → State) (s : State) : State := account i false 0 (f s)

end Sys2Proof.Machine
end

