-- ==== Sys2Proof/Machine/Arith.lean ====
section
/-! DEFINITION. Addition, subtraction, comparison, increment and decrement (42_arithmetic.md). -/

namespace Sys2Proof.Machine

/-- ADC (R241), binary whatever P.D holds (R240, R327). -/
def execAdc (o : Operand) (s : State) : Host.Outcome State Fault Refusal :=
  .next (readInstr (.adc o) o State.addWithCarry s)

/-- SBC (R242): the addition of the complement. -/
def execSbc (o : Operand) (s : State) : Host.Outcome State Fault Refusal :=
  .next (readInstr (.sbc o) o (fun v t => t.addWithCarry (~~~v)) s)

/-- CMP (R244). -/
def execCmp (o : Operand) (s : State) : Host.Outcome State Fault Refusal :=
  .next (readInstr (.cmp o) o (fun v t => t.compare t.a v) s)

/-- CPX (R245). -/
def execCpx (o : Operand) (s : State) : Host.Outcome State Fault Refusal :=
  .next (readInstr (.cpx o) o (fun v t => t.compare t.x v) s)

/-- CPY (R246). -/
def execCpy (o : Operand) (s : State) : Host.Outcome State Fault Refusal :=
  .next (readInstr (.cpy o) o (fun v t => t.compare t.y v) s)

/-- INC (R247): one read, one write, then N and Z. -/
def execInc (o : Operand) (s : State) : Host.Outcome State Fault Refusal :=
  .next (modifyInstr (.inc o) o (fun v _ => v + 1) (fun _ r t => t.setNZ r) s)

/-- DEC (R248). -/
def execDec (o : Operand) (s : State) : Host.Outcome State Fault Refusal :=
  .next (modifyInstr (.dec o) o (fun v _ => v - 1) (fun _ r t => t.setNZ r) s)

/-- INX (R249). -/
def execInx (s : State) : Host.Outcome State Fault Refusal :=
  .next (plainInstr .inx (fun t => t.loadX (t.x + 1)) s)

/-- INY (R250). -/
def execIny (s : State) : Host.Outcome State Fault Refusal :=
  .next (plainInstr .iny (fun t => t.loadY (t.y + 1)) s)

/-- DEX (R251). -/
def execDex (s : State) : Host.Outcome State Fault Refusal :=
  .next (plainInstr .dex (fun t => t.loadX (t.x - 1)) s)

/-- DEY (R252). -/
def execDey (s : State) : Host.Outcome State Fault Refusal :=
  .next (plainInstr .dey (fun t => t.loadY (t.y - 1)) s)

end Sys2Proof.Machine
end

