-- ==== Sys2Proof/Machine/Control.lean ====
section
/-! DEFINITION. Jumps, calls, returns, branches, BRK and NOP (44_control.md). -/

namespace Sys2Proof.Machine

/-- JMP absolute (R290): the operand used verbatim. -/
def execJmpAbs (target : Word) (s : State) : Host.Outcome State Fault Refusal :=
  .next (account (.jmpAbs target) false 0 (s.setPc (resolve (.abs target) s).ea))

/-- JMP indirect (R291), with the page bug of R141. -/
def execJmpInd (ptr : Word) (s : State) : Host.Outcome State Fault Refusal :=
  .next (account (.jmpInd ptr) false 0 ((resolve (.ind ptr) s).state.setPc (resolve (.ind ptr) s).ea))

/-- JSR (R292): pushes the address of its own last byte. -/
def execJsr (target : Word) (s : State) : Host.Outcome State Fault Refusal :=
  .next (account (.jsr target) false 0 ((push16 (s.pc - 1) s).setPc (resolve (.abs target) s).ea))

/-- RTS (R293): one more than the popped address. -/
def execRts (s : State) : Host.Outcome State Fault Refusal :=
  .next (plainInstr .rts (fun t => (pop16 t).2.setPc ((pop16 t).1 + 1)) s)

/-- RTI (R295). -/
def execRti (s : State) : Host.Outcome State Fault Refusal :=
  .next (plainInstr .rti returnFromInterrupt s)

/-- BPL (R296). -/
def execBpl (offset : Byte) (s : State) : Host.Outcome State Fault Refusal :=
  .next (branchInstr (.bpl offset) offset (!s.flag .n) s)

/-- BMI (R297). -/
def execBmi (offset : Byte) (s : State) : Host.Outcome State Fault Refusal :=
  .next (branchInstr (.bmi offset) offset (s.flag .n) s)

/-- BVC (R298). -/
def execBvc (offset : Byte) (s : State) : Host.Outcome State Fault Refusal :=
  .next (branchInstr (.bvc offset) offset (!s.flag .v) s)

/-- BVS (R299). -/
def execBvs (offset : Byte) (s : State) : Host.Outcome State Fault Refusal :=
  .next (branchInstr (.bvs offset) offset (s.flag .v) s)

/-- BCC (R300). -/
def execBcc (offset : Byte) (s : State) : Host.Outcome State Fault Refusal :=
  .next (branchInstr (.bcc offset) offset (!s.flag .c) s)

/-- BCS (R301). -/
def execBcs (offset : Byte) (s : State) : Host.Outcome State Fault Refusal :=
  .next (branchInstr (.bcs offset) offset (s.flag .c) s)

/-- BNE (R302). -/
def execBne (offset : Byte) (s : State) : Host.Outcome State Fault Refusal :=
  .next (branchInstr (.bne offset) offset (!s.flag .z) s)

/-- BEQ (R303). -/
def execBeq (offset : Byte) (s : State) : Host.Outcome State Fault Refusal :=
  .next (branchInstr (.beq offset) offset (s.flag .z) s)

/-- BRK (R304): sets B and stops the run; no push, no vector (D14, C5). The stop signal is step()'s result (log 4). -/
def execBrk (s : State) : Host.Outcome State Fault Refusal :=
  .next (plainInstr .brk (fun t => (t.setFlag .b true).setStopped true) s)

/-- NOP (R305). -/
def execNop (s : State) : Host.Outcome State Fault Refusal :=
  .next (plainInstr .nop id s)

end Sys2Proof.Machine
end

