-- ==== Sys2Proof/Machine/FlagInstr.lean ====
section
/-! DEFINITION. Flag instructions (45_flags.md). -/

namespace Sys2Proof.Machine

/-- CLC (R320). -/
def execClc (s : State) : Host.Outcome State Fault Refusal :=
  .next (plainInstr .clc (State.setFlag .c false) s)

/-- SEC (R321). -/
def execSec (s : State) : Host.Outcome State Fault Refusal :=
  .next (plainInstr .sec (State.setFlag .c true) s)

/-- CLI (R322). -/
def execCli (s : State) : Host.Outcome State Fault Refusal :=
  .next (plainInstr .cli (State.setFlag .i false) s)

/-- SEI (R323). -/
def execSei (s : State) : Host.Outcome State Fault Refusal :=
  .next (plainInstr .sei (State.setFlag .i true) s)

/-- CLV (R324). -/
def execClv (s : State) : Host.Outcome State Fault Refusal :=
  .next (plainInstr .clv (State.setFlag .v false) s)

/-- CLD (R325). -/
def execCld (s : State) : Host.Outcome State Fault Refusal :=
  .next (plainInstr .cld (State.setFlag .d false) s)

/-- SED (R326): no effect on arithmetic (R327). -/
def execSed (s : State) : Host.Outcome State Fault Refusal :=
  .next (plainInstr .sed (State.setFlag .d true) s)

end Sys2Proof.Machine
end

