-- ==== Sys2Proof/Machine/LoadStore.lean ====
section
/-! DEFINITION. Loads, stores and register transfers (40_load_store_transfer.md). -/

namespace Sys2Proof.Machine

/-- LDA (R200): A loaded from the operand, N and Z from the byte. -/
def execLda (o : Operand) (s : State) : Host.Outcome State Fault Refusal :=
  .next (readInstr (.lda o) o State.loadA s)

/-- LDX (R201). -/
def execLdx (o : Operand) (s : State) : Host.Outcome State Fault Refusal :=
  .next (readInstr (.ldx o) o State.loadX s)

/-- LDY (R202). -/
def execLdy (o : Operand) (s : State) : Host.Outcome State Fault Refusal :=
  .next (readInstr (.ldy o) o State.loadY s)

/-- STA (R203): A stored, no data read, no flag. -/
def execSta (o : Operand) (s : State) : Host.Outcome State Fault Refusal :=
  .next (writeInstr (.sta o) o s.a s)

/-- STX (R204). -/
def execStx (o : Operand) (s : State) : Host.Outcome State Fault Refusal :=
  .next (writeInstr (.stx o) o s.x s)

/-- STY (R205). -/
def execSty (o : Operand) (s : State) : Host.Outcome State Fault Refusal :=
  .next (writeInstr (.sty o) o s.y s)

/-- TAX (R206). -/
def execTax (s : State) : Host.Outcome State Fault Refusal :=
  .next (plainInstr .tax (fun t => t.loadX t.a) s)

/-- TAY (R207). -/
def execTay (s : State) : Host.Outcome State Fault Refusal :=
  .next (plainInstr .tay (fun t => t.loadY t.a) s)

/-- TXA (R208). -/
def execTxa (s : State) : Host.Outcome State Fault Refusal :=
  .next (plainInstr .txa (fun t => t.loadA t.x) s)

/-- TYA (R209). -/
def execTya (s : State) : Host.Outcome State Fault Refusal :=
  .next (plainInstr .tya (fun t => t.loadA t.y) s)

/-- TSX (R210): SP itself unchanged, no stack access. -/
def execTsx (s : State) : Host.Outcome State Fault Refusal :=
  .next (plainInstr .tsx (fun t => t.loadX t.sp) s)

/-- TXS (R211): writes no flag (C7). -/
def execTxs (s : State) : Host.Outcome State Fault Refusal :=
  .next (plainInstr .txs (fun t => t.setSp t.x) s)

end Sys2Proof.Machine
end

