-- ==== Sys2Proof/Machine/Logic.lean ====
section
/-! DEFINITION. Logical operations, bit test, shifts and rotates (43_logic_shift.md). -/

namespace Sys2Proof.Machine

/-- AND (R270). -/
def execAnd (o : Operand) (s : State) : Host.Outcome State Fault Refusal :=
  .next (readInstr (.and o) o (fun v t => t.loadA (t.a &&& v)) s)

/-- ORA (R271). -/
def execOra (o : Operand) (s : State) : Host.Outcome State Fault Refusal :=
  .next (readInstr (.ora o) o (fun v t => t.loadA (t.a ||| v)) s)

/-- EOR (R272). -/
def execEor (o : Operand) (s : State) : Host.Outcome State Fault Refusal :=
  .next (readInstr (.eor o) o (fun v t => t.loadA (t.a ^^^ v)) s)

/-- BIT (R273): Z from `A & v`, N and V from bits 7 and 6 of the operand (C7). -/
def execBit (o : Operand) (s : State) : Host.Outcome State Fault Refusal :=
  .next (readInstr (.bit o) o (fun v t => ((t.setFlag .z (decide (t.a &&& v = 0))).setFlag .n (v.getLsbD 7)).setFlag
    .v (v.getLsbD 6)) s)

/-- ASL (R274): C is the ejected bit 7; the flags are written after the store (C12). -/
def execAsl (o : Operand) (s : State) : Host.Outcome State Fault Refusal :=
  .next (modifyInstr (.asl o) o (fun v _ => shiftLeft v)
    (fun v r t => (t.setFlag .c (v.getLsbD 7)).setNZ r) s)

/-- LSR (R275): C is the ejected bit 0. -/
def execLsr (o : Operand) (s : State) : Host.Outcome State Fault Refusal :=
  .next (modifyInstr (.lsr o) o (fun v _ => shiftRight v)
    (fun v r t => (t.setFlag .c (v.getLsbD 0)).setNZ r) s)

/-- ROL (R276): the old carry enters bit 0. -/
def execRol (o : Operand) (s : State) : Host.Outcome State Fault Refusal :=
  .next (modifyInstr (.rol o) o (fun v t => rotateLeft v (t.flag .c))
    (fun v r t => (t.setFlag .c (v.getLsbD 7)).setNZ r) s)

/-- ROR (R277): the old carry enters bit 7. -/
def execRor (o : Operand) (s : State) : Host.Outcome State Fault Refusal :=
  .next (modifyInstr (.ror o) o (fun v t => rotateRight v (t.flag .c))
    (fun v r t => (t.setFlag .c (v.getLsbD 0)).setNZ r) s)

end Sys2Proof.Machine
end

