-- ==== Sys2Proof/Machine/Stack.lean ====
section
/-! DEFINITION. Stack instructions (41_stack.md). -/

namespace Sys2Proof.Machine

/-- PHA (R230). -/
def execPha (s : State) : Host.Outcome State Fault Refusal :=
  .next (plainInstr .pha (fun t => push8 t.a t) s)

/-- PHP (R231): the pushed byte has B and U set, P itself is unchanged. -/
def execPhp (s : State) : Host.Outcome State Fault Refusal :=
  .next (plainInstr .php (fun t => push8 (exportP t.p) t) s)

/-- PLA (R232). -/
def execPla (s : State) : Host.Outcome State Fault Refusal :=
  .next (plainInstr .pla (fun t => (pop8 t).2.loadA (pop8 t).1) s)

/-- PLP (R233): the raw import of R34. -/
def execPlp (s : State) : Host.Outcome State Fault Refusal :=
  .next (plainInstr .plp (fun t => (pop8 t).2.setP (importP (pop8 t).1)) s)

end Sys2Proof.Machine
end

