-- ==== Sys2Proof/Machine/Undocumented.lean ====
section
/-! DEFINITION. The undocumented opcodes (46_undocumented.md R331 to R347) and the opcodes behind the unimplemented marker (R348 to R354). -/

namespace Sys2Proof.Machine

/-- NOP, implied (R331). -/
def execNopImp (op : Byte) (s : State) : Host.Outcome State Fault Refusal :=
  .next (plainInstr (.nopImp op) id s)

/-- NOP, immediate (R332): the operand byte is consumed and not read. -/
def execNopImm (op : Byte) (value : Byte) (s : State) : Host.Outcome State Fault Refusal :=
  .next (plainInstr (.nopImm op value) id s)

/-- NOP, memory forms (R333): the data read is made, with its side effect, and the value discarded. -/
def execNopMem (op : Byte) (o : Operand) (s : State) : Host.Outcome State Fault Refusal :=
  .next (readInstr (.nopMem op o) o (fun _ t => t) s)

/-- SLO (R334): shift left, then OR. -/
def execSlo (o : Operand) (s : State) : Host.Outcome State Fault Refusal :=
  .next (modifyInstr (.slo o) o (fun v _ => shiftLeft v)
    (fun v r t => (t.setFlag .c (v.getLsbD 7)).loadA (t.a ||| r)) s)

/-- RLA (R335): rotate left, then AND. -/
def execRla (o : Operand) (s : State) : Host.Outcome State Fault Refusal :=
  .next (modifyInstr (.rla o) o (fun v t => rotateLeft v (t.flag .c))
    (fun v r t => (t.setFlag .c (v.getLsbD 7)).loadA (t.a &&& r)) s)

/-- SRE (R336): shift right, then EOR. -/
def execSre (o : Operand) (s : State) : Host.Outcome State Fault Refusal :=
  .next (modifyInstr (.sre o) o (fun v _ => shiftRight v)
    (fun v r t => (t.setFlag .c (v.getLsbD 0)).loadA (t.a ^^^ r)) s)

/-- RRA (R337): rotate right, then add with the carry the rotate produced. -/
def execRra (o : Operand) (s : State) : Host.Outcome State Fault Refusal :=
  .next (modifyInstr (.rra o) o (fun v t => rotateRight v (t.flag .c))
    (fun v r t => (t.setFlag .c (v.getLsbD 0)).addWithCarry r) s)

/-- SAX (R338): stores A AND X. -/
def execSax (o : Operand) (s : State) : Host.Outcome State Fault Refusal :=
  .next (writeInstr (.sax o) o (s.a &&& s.x) s)

/-- LAX (R339): loads A and X. -/
def execLax (o : Operand) (s : State) : Host.Outcome State Fault Refusal :=
  .next (readInstr (.lax o) o (fun v t => (t.setX v).loadA v) s)

/-- DCP (R340): decrement, then compare with A. -/
def execDcp (o : Operand) (s : State) : Host.Outcome State Fault Refusal :=
  .next (modifyInstr (.dcp o) o (fun v _ => v - 1)
    (fun _ r t => t.compare t.a r) s)

/-- ISB (R341): increment, then subtract with borrow. -/
def execIsb (o : Operand) (s : State) : Host.Outcome State Fault Refusal :=
  .next (modifyInstr (.isb o) o (fun v _ => v + 1)
    (fun _ r t => t.addWithCarry (~~~r)) s)

/-- ANC (R342): AND, then N into C. -/
def execAnc (op : Byte) (value : Byte) (s : State) : Host.Outcome State Fault Refusal :=
  .next (readInstr (.anc op value) (.imm value) (fun v t => (t.loadA (t.a &&& v)).setFlag .c ((t.a &&& v).getLsbD 7)) s)

/-- ALR (R343): AND, then shift right. -/
def execAlr (value : Byte) (s : State) : Host.Outcome State Fault Refusal :=
  .next (readInstr (.alr value) (.imm value) (fun v t => (t.setFlag .c ((t.a &&& v).getLsbD 0)).loadA (shiftRight (t.a &&& v))) s)

/-- ARR (R344): AND, then rotate right, with its own C and V. -/
def execArr (value : Byte) (s : State) : Host.Outcome State Fault Refusal :=
  .next (readInstr (.arr value) (.imm value) (fun v t =>
    let r := rotateRight (t.a &&& v) (t.flag .c)
    ((t.loadA r).setFlag .c (r.getLsbD 6)).setFlag .v (r.getLsbD 6 ^^ r.getLsbD 5)) s)

/-- AXS (R345): (A AND X) minus the byte into X; no borrow in, V not written. -/
def execAxs (value : Byte) (s : State) : Host.Outcome State Fault Refusal :=
  .next (readInstr (.axs value) (.imm value) (fun v t =>
    (t.setFlag .c (decide (v.toNat ≤ (t.a &&& t.x).toNat))).loadX ((t.a &&& t.x) - v)) s)

/-- SBC 0xEB (R346): as SBC. -/
def execSbcEB (value : Byte) (s : State) : Host.Outcome State Fault Refusal :=
  .next (readInstr (.sbcEB value) (.imm value) (fun v t => t.addWithCarry (~~~v)) s)

/-- LAS (R347): A, X and SP loaded with the byte AND SP. -/
def execLas (addr : Word) (s : State) : Host.Outcome State Fault Refusal :=
  .next (readInstr (.las addr) (.absy addr) (fun v t =>
    ((t.setSp (v &&& t.sp)).setX (v &&& t.sp)).loadA (v &&& t.sp)) s)

/-- XAA (R348): unimplemented. The operand byte is not read (log 10). -/
def execXaa (value : Byte) (s : State) : Host.Outcome State Fault Refusal :=
  .next (raiseUnimplemented ((Instr.xaa value).opcode.getD 0x8B) s)

/-- LXA (R349): unimplemented. -/
def execLxa (value : Byte) (s : State) : Host.Outcome State Fault Refusal :=
  .next (raiseUnimplemented ((Instr.lxa value).opcode.getD 0xAB) s)

/-- AHX (R350): unimplemented; opcode 0x93 (INDY) or 0x9F (ABSY). -/
def execAhx (o : Operand) (s : State) : Host.Outcome State Fault Refusal :=
  .next (raiseUnimplemented ((Instr.ahx o).opcode.getD 0x9F) s)

/-- TAS (R351): unimplemented. -/
def execTas (addr : Word) (s : State) : Host.Outcome State Fault Refusal :=
  .next (raiseUnimplemented ((Instr.tas addr).opcode.getD 0x9B) s)

/-- SHY (R352): unimplemented. -/
def execShy (addr : Word) (s : State) : Host.Outcome State Fault Refusal :=
  .next (raiseUnimplemented ((Instr.shy addr).opcode.getD 0x9C) s)

/-- SHX (R353): unimplemented. -/
def execShx (addr : Word) (s : State) : Host.Outcome State Fault Refusal :=
  .next (raiseUnimplemented ((Instr.shx addr).opcode.getD 0x9E) s)

/-- JAM (R354): unimplemented. -/
def execJam (op : Byte) (s : State) : Host.Outcome State Fault Refusal :=
  .next (raiseUnimplemented op s)

end Sys2Proof.Machine
end

