-- ==== Sys2Proof/Machine/Dispatch.lean ====
section
/-! DEFINITION. One arm per constructor of Instr, each one direct call of the instruction's meaning. -/

namespace Sys2Proof.Machine

def exec (i : Instr) (s : State) : Host.Outcome State Fault Refusal :=
  match i with
  | .lda o => Sys2Proof.Machine.execLda o s
  | .ldx o => Sys2Proof.Machine.execLdx o s
  | .ldy o => Sys2Proof.Machine.execLdy o s
  | .sta o => Sys2Proof.Machine.execSta o s
  | .stx o => Sys2Proof.Machine.execStx o s
  | .sty o => Sys2Proof.Machine.execSty o s
  | .tax => Sys2Proof.Machine.execTax s
  | .tay => Sys2Proof.Machine.execTay s
  | .txa => Sys2Proof.Machine.execTxa s
  | .tya => Sys2Proof.Machine.execTya s
  | .tsx => Sys2Proof.Machine.execTsx s
  | .txs => Sys2Proof.Machine.execTxs s
  | .pha => Sys2Proof.Machine.execPha s
  | .php => Sys2Proof.Machine.execPhp s
  | .pla => Sys2Proof.Machine.execPla s
  | .plp => Sys2Proof.Machine.execPlp s
  | .adc o => Sys2Proof.Machine.execAdc o s
  | .sbc o => Sys2Proof.Machine.execSbc o s
  | .cmp o => Sys2Proof.Machine.execCmp o s
  | .cpx o => Sys2Proof.Machine.execCpx o s
  | .cpy o => Sys2Proof.Machine.execCpy o s
  | .inc o => Sys2Proof.Machine.execInc o s
  | .dec o => Sys2Proof.Machine.execDec o s
  | .inx => Sys2Proof.Machine.execInx s
  | .iny => Sys2Proof.Machine.execIny s
  | .dex => Sys2Proof.Machine.execDex s
  | .dey => Sys2Proof.Machine.execDey s
  | .and o => Sys2Proof.Machine.execAnd o s
  | .ora o => Sys2Proof.Machine.execOra o s
  | .eor o => Sys2Proof.Machine.execEor o s
  | .bit o => Sys2Proof.Machine.execBit o s
  | .asl o => Sys2Proof.Machine.execAsl o s
  | .lsr o => Sys2Proof.Machine.execLsr o s
  | .rol o => Sys2Proof.Machine.execRol o s
  | .ror o => Sys2Proof.Machine.execRor o s
  | .jmpAbs target => Sys2Proof.Machine.execJmpAbs target s
  | .jmpInd ptr => Sys2Proof.Machine.execJmpInd ptr s
  | .jsr target => Sys2Proof.Machine.execJsr target s
  | .rts => Sys2Proof.Machine.execRts s
  | .rti => Sys2Proof.Machine.execRti s
  | .bpl offset => Sys2Proof.Machine.execBpl offset s
  | .bmi offset => Sys2Proof.Machine.execBmi offset s
  | .bvc offset => Sys2Proof.Machine.execBvc offset s
  | .bvs offset => Sys2Proof.Machine.execBvs offset s
  | .bcc offset => Sys2Proof.Machine.execBcc offset s
  | .bcs offset => Sys2Proof.Machine.execBcs offset s
  | .bne offset => Sys2Proof.Machine.execBne offset s
  | .beq offset => Sys2Proof.Machine.execBeq offset s
  | .brk => Sys2Proof.Machine.execBrk s
  | .nop => Sys2Proof.Machine.execNop s
  | .clc => Sys2Proof.Machine.execClc s
  | .sec => Sys2Proof.Machine.execSec s
  | .cli => Sys2Proof.Machine.execCli s
  | .sei => Sys2Proof.Machine.execSei s
  | .clv => Sys2Proof.Machine.execClv s
  | .cld => Sys2Proof.Machine.execCld s
  | .sed => Sys2Proof.Machine.execSed s
  | .nopImp op => Sys2Proof.Machine.execNopImp op s
  | .nopImm op value => Sys2Proof.Machine.execNopImm op value s
  | .nopMem op o => Sys2Proof.Machine.execNopMem op o s
  | .slo o => Sys2Proof.Machine.execSlo o s
  | .rla o => Sys2Proof.Machine.execRla o s
  | .sre o => Sys2Proof.Machine.execSre o s
  | .rra o => Sys2Proof.Machine.execRra o s
  | .sax o => Sys2Proof.Machine.execSax o s
  | .lax o => Sys2Proof.Machine.execLax o s
  | .dcp o => Sys2Proof.Machine.execDcp o s
  | .isb o => Sys2Proof.Machine.execIsb o s
  | .anc op value => Sys2Proof.Machine.execAnc op value s
  | .alr value => Sys2Proof.Machine.execAlr value s
  | .arr value => Sys2Proof.Machine.execArr value s
  | .axs value => Sys2Proof.Machine.execAxs value s
  | .sbcEB value => Sys2Proof.Machine.execSbcEB value s
  | .las addr => Sys2Proof.Machine.execLas addr s
  | .xaa value => Sys2Proof.Machine.execXaa value s
  | .lxa value => Sys2Proof.Machine.execLxa value s
  | .ahx o => Sys2Proof.Machine.execAhx o s
  | .tas addr => Sys2Proof.Machine.execTas addr s
  | .shy addr => Sys2Proof.Machine.execShy addr s
  | .shx addr => Sys2Proof.Machine.execShx addr s
  | .jam op => Sys2Proof.Machine.execJam op s

end Sys2Proof.Machine
end

