-- ==== Sys2Proof/Machine/Fetch.lean ====
section
/-! DEFINITION. Instruction fetch (R120 steps 1 to 3, R121), and the placing of an instruction where the next
step fetches. -/

namespace Sys2Proof.Machine

/-- The operand byte number `k` (1 or 2) of an opcode, at address `a`. It is read on the bus where the step reads
it; the bytes the step never reads (R124, R332) are only looked at, with no access, so that the instruction term
carries them (log 10). -/
def operandByte (d : Descriptor) (k : Nat) (a : Word) (s : State) : Byte × State :=
  if k < d.length then
    if d.readsOperands then busRead a s else (peek s a, s)
  else (0x00, s)

/-- The fetch of one instruction: the opcode at PC, then its operand bytes at increasing addresses, all through
the bus (R70, R121); PC then stands past them (or past the opcode alone, R401), and the stop signal of the step
before is gone. -/
def fetch (s : State) : Instr × State :=
  let op := busRead s.pc (s.setStopped false)
  let d := descriptor op.1
  let b1 := operandByte d 1 (s.pc + 1) op.2
  let b2 := operandByte d 2 (s.pc + 2) b1.2
  (assemble op.1 b1.1 b2.1, b2.2.setPc (s.pc + BitVec.ofNat 16 d.consumed))

/-- The address holds a byte that can be placed from outside: RAM or program ROM. -/
def placeable (a : Word) : Bool := inRam a || inRom a

/-- A byte placed at an address of RAM or program ROM, with no bus access. -/
def placeByte (a : Word) (v : Byte) (s : State) : State :=
  if inRam a then s.setRam (s.ram.write (ramIndex a) v)
  else if inRom a then writeRom a v s
  else s

/-- Bytes placed from an address on. -/
def placeBytes : Word → List Byte → State → State
  | _, [], s => s
  | a, b :: bs, s => placeBytes (a + 1) bs (placeByte a b s)

/-- An instruction's bytes placed where the next step fetches. A recorded fault is removed, since such a machine
takes no step; and where PC is at an address that holds no byte (a peripheral or unmapped space), PC is moved to
the ROM window's base first. Log 17. -/
def placeInstruction (bs : List Byte) (s : State) : State :=
  let t := { s with fault := none }
  if placeable s.pc && placeable (s.pc + 1) && placeable (s.pc + 2) then placeBytes s.pc bs t
  else placeBytes Config.romBase bs (t.setPc Config.romBase)

end Sys2Proof.Machine
end

