-- ==== Sys2Proof/Machine/Step.lean ====
section
/-! DEFINITION. One step (R120): `step()` of the spec, which executes exactly one instruction. Interrupts are
delivered between steps, by the run loop of Machine/RunLoop.lean (R414, log 12). -/

namespace Sys2Proof.Machine

/-- `step()` (R120). A CPU whose fault record is set takes no further step (R38, R403): the outcome is the
recorded fault. Otherwise the instruction is fetched, PC stands past it, and its meaning runs. -/
def step (s : State) : Host.Outcome State Fault Refusal :=
  match s.fault with
  | some f => .fault f
  | none => exec (fetch s).1 (fetch s).2

/-- The state with an instruction, given as the opcode table numbers its bits, placed where the next step fetches
it, and ready to take that step. -/
def State.withFetchWord (s : State) (nbits w : Nat) : State := placeInstruction (bytesOfNat 3 (w % 2 ^ nbits)) s

end Sys2Proof.Machine
end

