-- ==== Sys2Proof/Machine/HostOps.lean ====
section
/-! DEFINITION. Construction, reset, loading and the host's memory operations (70_reset_and_hazards.md R450 to
R458, 60_exceptions.md R416, R440). -/

namespace Sys2Proof.Machine

/-- A parsed cartridge value (R455). -/
structure Cartridge where
  prg : List Byte
  chr : List Byte
  mirroring : Nat
  deriving DecidableEq, Repr

/-- The bank a program ROM of a given length is, if it is one of the two (R88, R455). -/
def bankOf (length : Nat) : Option Bank :=
  if length = Config.fullBank then some .full
  else if length = Config.halfBank then some .half
  else none

/-- `new(bus)` (R450), for P_RESET `r` (U9): every piece of CPU state at its construction value (R40), the bus as it
is, no access, no charge. -/
def newCpu (r : Config.PReset) (s : State) : State :=
  { s with
    a := 0x00, x := 0x00, y := 0x00, sp := Config.spReset, p := r.value, pc := 0x0000
    cycles := 0, pending := none, fault := none, stopped := false }

/-- `reset()` (R451), for P_RESET `r` (U9): registers, then the charge, then PC from the reset vector.
RAM, the cartridge and the fault record stay (R452). -/
def resetCpu (r : Config.PReset) (s : State) : State :=
  let t : State :=
    { s with a := 0x00, x := 0x00, y := 0x00, sp := Config.spReset, p := r.value, pending := none }
  let v := busRead16 Config.vecReset (charge Config.resetCycles t)
  v.2.setPc v.1

/-- `Bus.new(cart)` with RAM_INIT an argument (R455, D22), and `new(bus)` around it, with P_RESET `r` another (U9). -/
def powerOn (r : Config.PReset) (cart : Cartridge) (ramInit : List Byte) : Host.Outcome State Fault Refusal :=
  match bankOf cart.prg.length with
  | none => .refused (.badProgramLength cart.prg.length)
  | some k =>
    .next (newCpu r
      { State.reset with
        ram := Memory.ofBytes (ramInit.take Config.ramSize), prg := Memory.ofBytes cart.prg, bank := k
        chr := cart.chr, mirroring := cart.mirroring, draws := 0, events := [] })

/-- Replacing the cartridge (R458), for P_RESET `r` (U9): PRG, CHR and MIRRORING replaced wholesale, RAM kept, then
`reset()`. -/
def replaceCartridge (r : Config.PReset) (cart : Cartridge) (s : State) : Host.Outcome State Fault Refusal :=
  match bankOf cart.prg.length with
  | none => .refused (.badProgramLength cart.prg.length)
  | some k =>
    .next (resetCpu r
      { s with prg := Memory.ofBytes cart.prg, bank := k, chr := cart.chr, mirroring := cart.mirroring })

/-- Bytes copied into the program ROM from an address on, by the host's backdoor (R457). -/
def copyToRom : Word → List Byte → State → State
  | _, [], s => s
  | a, b :: bs, s => copyToRom (a + 1) bs (writeRom a b s)

/-- `load(bytes)` (R457): the bytes, then LOAD_BASE in the reset vector; refused if they do not fit. -/
def loadProgram (bytes : List Byte) (s : State) : Host.Outcome State Fault Refusal :=
  if s.bank.size < bytes.length then .refused (.programTooLong bytes.length)
  else
    .next (writeRom (Config.vecReset + 1) (hi8 Config.loadBase)
      (writeRom Config.vecReset (lo8 Config.loadBase) (copyToRom Config.loadBase bytes s)))

/-- `acknowledge()` (R416): the pending marker cleared, nothing else. -/
def acknowledge (s : State) : State := s.setPending none

/-- The host's write of P between steps (R26); U is hardwired (R28). Log 14. -/
def hostWriteP (v : Byte) (s : State) : State := s.setP (v ||| 0x20)

end Sys2Proof.Machine
end

