-- ==== Sys2Proof/Machine/RunLoop.lean ====
section
/-! DEFINITION. The host's run loop (60_exceptions.md R430 to R434): the NMI poll, the IRQ test, delivery, the
callback, the step, and the end of a run; and the host operations a callback may use (R440, R441). -/

namespace Sys2Proof.Machine

/-- `VideoNmiPoll()` (R411, R431): a free Boolean, and an event. -/
def pollNmi (s : State) : Bool × State := (Config.nmiAnswer s.draws, s.drawn.record .videoNmiPoll)

/-- `IRQ_LINE()` (R418): a free Boolean; it is no request to an external agent, so no event. Log 13. -/
def askIrq (s : State) : Bool × State := (Config.irqAnswer s.draws, s.drawn)

/-- The interrupt part of an iteration (R421, R430): NMI first; only if it is not requested is IRQ_LINE asked, and
an IRQ is delivered only while I is clear (R420). At most one is delivered. -/
def pollAndDeliver (s : State) : State :=
  let n := pollNmi s
  if n.1 then deliver .nmi n.2
  else
    let q := askIrq n.2
    if q.1 && !q.2.flag .i then deliver .irq q.2 else q.2

/-- How a run ends (R433). -/
inductive RunEnd where
  /-- BRK was executed. -/
  | stopped
  /-- The callback asked for it (R432). -/
  | hostStopped
  /-- A fault is recorded. -/
  | faulted (f : Fault)
  /-- A step refused, which no step of this model does. -/
  | refused (r : Refusal)
  deriving DecidableEq, Repr

/-- A run, after some iterations: going on, or ended. -/
inductive RunState where
  | running (s : State)
  | ended (e : RunEnd) (s : State)
  deriving DecidableEq, Repr

/-- The state a run has reached. -/
def RunState.state : RunState → State
  | .running s => s
  | .ended _ s => s

/-- The step of an iteration and the tests after it (R430). Where the callback left a fault recorded there is no
step (R38) and the run has ended. -/
def stepOfIteration (s : State) : RunState :=
  match step s with
  | .next t =>
    match t.fault with
    | some f => .ended (.faulted f) t
    | none => if t.stopped then .ended .stopped t else .running t
  | .fault f => .ended (.faulted f) s
  | .refused r => .ended (.refused r) s

/-- One iteration of the run loop (R430), `callback` giving the state it leaves and its stop request (R441). -/
def iteration (callback : State → State × Bool) (s : State) : RunState :=
  match s.fault with
  | some f => .ended (.faulted f) s
  | none =>
    let r := callback (pollAndDeliver s)
    if r.2 then .ended .hostStopped r.1 else stepOfIteration r.1

/-- The first `n` iterations of `run_with_callback` (R430), so that a run can be evaluated. `running` says only that
the loop has not ended by then: it is no end of the run and nothing returns (R433, log 15). -/
def runFor (callback : State → State × Bool) : Nat → State → RunState
  | 0, s => .running s
  | n + 1, s =>
    match iteration callback s with
    | .running t => runFor callback n t
    | .ended e t => .ended e t

/-- `run_with_callback` ends as `e` says, in `t` (R433). It has no bound: a run for which no number of iterations is
enough has no end. -/
def RunEnds (callback : State → State × Bool) (s : State) (e : RunEnd) (t : State) : Prop :=
  ∃ n, runFor callback n s = .ended e t

/-- The callback that does nothing and never stops (R434). -/
def quiet (s : State) : State × Bool := (s, false)

/-- `load_and_run(bytes)` (R434), for P_RESET `r` (U9, as in all that follows): load, reset, and the first
`n` iterations of the run. -/
def loadAndRun (r : Config.PReset) (bytes : List Byte) (n : Nat) (s : State) : Host.Outcome RunState Fault Refusal :=
  match loadProgram bytes s with
  | .next t => .next (runFor quiet n (resetCpu r t))
  | .fault f => .fault f
  | .refused e => .refused e

/-- What `load_and_run(bytes)` returns, looked for in the first `n` iterations of its run; none where the run has
not ended by then (R433). -/
def loadAndRunReturn (r : Config.PReset) (bytes : List Byte) (n : Nat) (s : State) :
    Option (Host.Outcome State Fault Refusal) :=
  match loadAndRun r bytes n s with
  | .next (.ended _ t) => some (.next t)
  | .next (.running _) => none
  | .fault f => some (.fault f)
  | .refused e => some (.refused e)

/-- The host operations of R440 (and the host's write of P, R26), `run_with_callback` itself apart (R441). -/
inductive HostOp where
  | newCpu
  | reset
  | load (bytes : List Byte)
  | loadAndRun (bytes : List Byte)
  | step
  | acknowledge
  | read8 (a : Word)
  | read16 (a : Word)
  | write8 (a : Word) (v : Byte)
  | write16 (a : Word) (w : Word)
  | replaceCartridge (cart : Cartridge)
  | writeP (v : Byte)
  deriving DecidableEq, Repr

/-- What a host operation returns: its next state, the recorded fault of a CPU that takes no further step, or the
refusal. Only `load_and_run` can take long: its return is looked for in the first `n` iterations of its run, and
none says that it has not returned by then. -/
def HostOp.apply (r : Config.PReset) (op : HostOp) (n : Nat) (s : State) : Option (Host.Outcome State Fault Refusal) :=
  match op with
  | .newCpu => some (.next (Machine.newCpu r s))
  | .reset => some (.next (resetCpu r s))
  | .load bytes => some (loadProgram bytes s)
  | .loadAndRun bytes => loadAndRunReturn r bytes n s
  | .step => some (Machine.step s)
  | .acknowledge => some (.next (Machine.acknowledge s))
  | .read8 a => some (.next (busRead a s).2)
  | .read16 a => some (.next (busRead16 a s).2)
  | .write8 a v => some (.next (busWrite a v s))
  | .write16 a w => some (.next (busWrite16 a w s))
  | .replaceCartridge cart => some (Machine.replaceCartridge r cart s)
  | .writeP v => some (.next (hostWriteP v s))

/-- A host operation returns `o` (R440). A `load_and_run` whose run does not end returns nothing at all. -/
def HostOp.Returns (r : Config.PReset) (op : HostOp) (s : State) (o : Host.Outcome State Fault Refusal) : Prop :=
  ∃ n, op.apply r n s = some o

/-- The state a returned host operation leaves: one that is refused, or a step of a CPU whose fault record is set,
changes nothing (R38, R406; log 22). -/
def stateAfter (s : State) (o : Host.Outcome State Fault Refusal) : State :=
  match o with
  | .next t => t
  | .fault _ => s
  | .refused _ => s

/-- Host operations in order, each return looked for in the first `n` iterations of its run; none where one of them
has not returned by then, and the operations after it have not begun. -/
def runHostOps (r : Config.PReset) (n : Nat) : List HostOp → State → Option State
  | [], s => some s
  | op :: ops, s =>
    match op.apply r n s with
    | some o => runHostOps r n ops (stateAfter s o)
    | none => none

/-- Host operations can lead from `s` to `t`. -/
def HostReaches (r : Config.PReset) (s t : State) : Prop := ∃ n ops, runHostOps r n ops s = some t

/-- The callbacks the spec allows (R441): from each state, one leaves a state that host operations lead to, and
asks for a stop or does not. It has returned, so every operation in it has (log 14). -/
def CallbackAllowed (r : Config.PReset) (callback : State → State × Bool) : Prop :=
  ∀ s, HostReaches r s (callback s).1

end Sys2Proof.Machine
end

