-- ==== Sys2Proof/Safety.lean ====
section
/-! DEFINITION. What claims about the machine are stated in: a safe state, the machine's invariant, the parts of
the state an instruction leaves alone, and the tables of which instruction writes which flag and register. -/

namespace Sys2Proof.Machine

/-- No fault is recorded. A run is safe while this holds: a recorded fault ends it (R38, R403). -/
def State.safe (s : State) : Bool := decide (s.fault = none)

/-- The invariant of the machine: RAM and program ROM are in canonical form, every listed cell inside the array,
and bit U of P is 1 (R28). -/
structure Inv (s : State) : Prop where
  ram : s.ram.wf Config.ramSize = true
  prg : s.prg.wf s.bank.size = true
  unused : s.unused = true

/-- The ticks the video unit was given in a history: its clock (R43). -/
def videoTicks : List Event → Nat
  | [] => 0
  | .videoTick n :: es => n + videoTicks es
  | .videoRead _ :: es => videoTicks es
  | .videoWrite _ _ :: es => videoTicks es
  | .videoOamDmaWrite _ :: es => videoTicks es
  | .videoNmiPoll :: es => videoTicks es
  | .ctrlRead :: es => videoTicks es
  | .ctrlWrite _ :: es => videoTicks es

/-- No event of the history part is a tick. -/
def noTick (es : List Event) : Bool :=
  es.all fun e =>
    match e with
    | .videoTick _ => false
    | .videoRead _ => true
    | .videoWrite _ _ => true
    | .videoOamDmaWrite _ => true
    | .videoNmiPoll => true
    | .ctrlRead => true
    | .ctrlWrite _ => true

/-- A read of the address is answered by an external agent (R83, R84, R86). -/
def answered (a : Word) : Bool :=
  match readTarget a with
  | .controller => true
  | .video _ => true
  | .ram _ => false
  | .rom => false
  | .zero => false

/-- The 8-bit registers but P. -/
inductive Reg where
  | a | x | y | sp
  deriving DecidableEq, Repr

/-- The value of a register. -/
def State.reg (s : State) : Reg → Byte
  | .a => s.a
  | .x => s.x
  | .y => s.y
  | .sp => s.sp

/-- Of A, X, Y, SP only those of `regs` changed, of the flags of P only those of `flags`, and neither the pending
marker, the fault record, the stop signal, the cartridge's length and tag, nor CHR. -/
structure Frame (regs : List Reg) (flags : List Flag) (s t : State) : Prop where
  reg : ∀ r, r ∉ regs → t.reg r = s.reg r
  flag : ∀ f, f ∉ flags → t.flag f = s.flag f
  pending : t.pending = s.pending
  fault : t.fault = s.fault
  stopped : t.stopped = s.stopped
  bank : t.bank = s.bank
  chr : t.chr = s.chr
  mirroring : t.mirroring = s.mirroring

/-- What stands at every address is as before. -/
def SameMemory (s t : State) : Prop := ∀ b, peek t b = peek s b

/-- `b` is an address of the RAM cell that `ea` is an address of (R82: each cell has four). -/
def SameCell (ea b : Word) : Prop := inRam ea = true ∧ inRam b = true ∧ ramIndex b = ramIndex ea

/-- What stands at every address after `v` was stored to `ea`: `v` at the addresses of the RAM cell stored to, if
`ea` is in RAM, and what stood there before at every other address. -/
def StoredAt (ea : Word) (v : Byte) (s t : State) : Prop :=
  ∀ b, (SameCell ea b → peek t b = v) ∧ (¬ SameCell ea b → peek t b = peek s b)

/-- `n` cycles were charged, after the accesses that led from `s` to `mid` (R78, R114): the counter, and the
history and the count of answers, which hold those accesses and then the video unit's ticks. -/
structure Charged (n : Nat) (mid s t : State) : Prop where
  cycles : t.cycles = s.cycles + n
  events : t.events = .videoTick (3 * n) :: mid.events
  draws : t.draws = mid.draws

/-- Z and N are those of `v` (R33). -/
def NZOf (v : Byte) (t : State) : Prop := t.flag .z = decide (v = 0) ∧ t.flag .n = v.getLsbD 7

/-- The address an operand resolves to. -/
def effectiveAddress (o : Operand) (s : State) : Word := (resolve o s).ea

/-- The page-crossed report of an operand. -/
def pageCrossed (o : Operand) (s : State) : Bool := (resolve o s).crossed

/-- The byte an operand reads as. -/
def operandValue (o : Operand) (s : State) : Byte := (load o (resolve o s).ea (resolve o s).state).1

/-- The state after the accesses that resolve and read an operand. -/
def operandState (o : Operand) (s : State) : State := (load o (resolve o s).ea (resolve o s).state).2

/-- The cost of an instruction: its base cost, and one more if it is page-sensitive and a page was crossed (R122). -/
def instrCost (i : Instr) (crossed : Bool) : Nat :=
  i.baseCycles + (if i.pagePenalty = true ∧ crossed = true then 1 else 0)

/-- What is common to the instructions that read their operand and store nothing: PC stays at the next
instruction, memory and bit U are as before, and the cost is charged after the operand's accesses. -/
structure ReadOutcome (i : Instr) (o : Operand) (regs : List Reg) (flags : List Flag) (s t : State) : Prop where
  frame : Frame regs flags s t
  unused : t.unused = s.unused
  pc : t.pc = s.pc
  memory : SameMemory s t
  charged : Charged (instrCost i (pageCrossed o s)) (operandState o s) s t

/-- What is common to the instructions that make no data access: memory and bit U are as before, and `n` cycles are
charged. -/
structure PlainOutcome (n : Nat) (regs : List Reg) (flags : List Flag) (s t : State) : Prop where
  frame : Frame regs flags s t
  unused : t.unused = s.unused
  memory : SameMemory s t
  charged : Charged n s s t

/-- What is common to the instructions that push the byte `v`: it is stored at 0x0100 + SP and nowhere else, SP is
decremented modulo 256, PC stays at the next instruction, and 3 cycles are charged. -/
structure PushOutcome (v : Byte) (s t : State) : Prop where
  frame : Frame [.sp] [] s t
  unused : t.unused = s.unused
  pc : t.pc = s.pc
  sp : t.sp = s.sp - 1
  memory : StoredAt (0x0100 + s.sp.setWidth 16) v s t
  charged : Charged 3 s s t

/-- What is common to the instructions that store `v` to their operand's address, the accesses before the store
having led to `mid`: PC stays at the next instruction, the byte is stored there and nowhere else, and the cost is
charged after the store. -/
structure StoreOutcome (i : Instr) (o : Operand) (v : Byte) (mid : State) (regs : List Reg) (flags : List Flag)
    (s t : State) : Prop where
  frame : Frame regs flags s t
  unused : t.unused = s.unused
  pc : t.pc = s.pc
  memory : StoredAt (effectiveAddress o s) v s t
  charged : Charged (instrCost i (pageCrossed o s)) (busWrite (effectiveAddress o s) v mid) s t

/-- What R294 says of one branch on a condition: 2 cycles not taken, 3 taken within the page of the next
instruction, 4 taken into another page; PC alone changes beside the charge. -/
def BranchOutcome (i : Instr) (offset : Byte) (cond : Bool) (s : State) : Prop :=
  ∃ t, exec i s = .next t ∧
    (cond = false → t.pc = s.pc ∧ PlainOutcome 2 [] [] s t) ∧
    (cond = true → (t.pc.toNat : Int) = ((s.pc.toNat : Int) + offset.toInt) % 65536 ∧
      PlainOutcome (if t.pc.toNat / 256 = s.pc.toNat / 256 then 3 else 4) [] [] s t)

/-- The state a store of `v` to an operand in the ROM window leaves: the fault recorded and nothing else (R402,
R403). -/
def romFault (o : Operand) (v : Byte) (s : State) : State :=
  { s with fault := some (.illegalRomWrite (effectiveAddress o s) v) }

/-- The modes whose page crossing costs a read a cycle (R151). -/
def pagedModes : List Mode := [.absx, .absy, .indy]

/-- The base cost of a read by mode (R152). -/
def readCycles : Mode → Nat
  | .imm => 2
  | .zp => 3
  | .zpx => 4
  | .zpy => 4
  | .abs => 4
  | .absx => 4
  | .absy => 4
  | .indx => 6
  | .indy => 5
  | _ => 0

/-- The cost of a store by mode (R152). -/
def storeCycles : Mode → Nat
  | .zp => 3
  | .zpx => 4
  | .zpy => 4
  | .abs => 4
  | .absx => 5
  | .absy => 5
  | .indx => 6
  | .indy => 6
  | _ => 0

/-- The cost of a shift, a rotate, an increment or decrement of memory, or a combined read-modify-write opcode, by
mode (R152, 46_undocumented.md section 3). -/
def modifyCycles : Mode → Nat
  | .acc => 2
  | .zp => 5
  | .zpx => 6
  | .abs => 6
  | .absx => 7
  | .absy => 7
  | .indx => 8
  | .indy => 8
  | _ => 0

/-- One entry `op:cycles` of the table of R152: `plus` is its `+`, and `implemented` is false where it has `F` (the
unimplemented marker, whose cost is 0 here, since it is never charged). -/
structure TableEntry where
  mnemonic : Mnemonic
  mode : Mode
  op : Byte
  cycles : Nat
  plus : Bool
  implemented : Bool
  deriving DecidableEq, Repr

/-- The table of R152, part 1 of 8: ADC to BIT. -/
def mnemonicTable1 : List TableEntry :=
  [⟨.adc, .imm, 0x69, 2, false, true⟩, ⟨.adc, .zp, 0x65, 3, false, true⟩,
   ⟨.adc, .zpx, 0x75, 4, false, true⟩, ⟨.adc, .abs, 0x6D, 4, false, true⟩,
   ⟨.adc, .absx, 0x7D, 4, true, true⟩, ⟨.adc, .absy, 0x79, 4, true, true⟩,
   ⟨.adc, .indx, 0x61, 6, false, true⟩, ⟨.adc, .indy, 0x71, 5, true, true⟩,
   ⟨.ahx, .absy, 0x9F, 0, false, false⟩, ⟨.ahx, .indy, 0x93, 0, false, false⟩,
   ⟨.alr, .imm, 0x4B, 2, false, true⟩, ⟨.anc, .imm, 0x0B, 2, false, true⟩,
   ⟨.anc, .imm, 0x2B, 2, false, true⟩, ⟨.and, .imm, 0x29, 2, false, true⟩,
   ⟨.and, .zp, 0x25, 3, false, true⟩, ⟨.and, .zpx, 0x35, 4, false, true⟩,
   ⟨.and, .abs, 0x2D, 4, false, true⟩, ⟨.and, .absx, 0x3D, 4, true, true⟩,
   ⟨.and, .absy, 0x39, 4, true, true⟩, ⟨.and, .indx, 0x21, 6, false, true⟩,
   ⟨.and, .indy, 0x31, 5, true, true⟩, ⟨.arr, .imm, 0x6B, 2, false, true⟩,
   ⟨.asl, .acc, 0x0A, 2, false, true⟩, ⟨.asl, .zp, 0x06, 5, false, true⟩,
   ⟨.asl, .zpx, 0x16, 6, false, true⟩, ⟨.asl, .abs, 0x0E, 6, false, true⟩,
   ⟨.asl, .absx, 0x1E, 7, false, true⟩, ⟨.axs, .imm, 0xCB, 2, false, true⟩,
   ⟨.bcc, .rel, 0x90, 2, false, true⟩, ⟨.bcs, .rel, 0xB0, 2, false, true⟩,
   ⟨.beq, .rel, 0xF0, 2, false, true⟩, ⟨.bit, .zp, 0x24, 3, false, true⟩]

/-- The table of R152, part 2 of 8: BIT to DCP. -/
def mnemonicTable2 : List TableEntry :=
  [⟨.bit, .abs, 0x2C, 4, false, true⟩, ⟨.bmi, .rel, 0x30, 2, false, true⟩,
   ⟨.bne, .rel, 0xD0, 2, false, true⟩, ⟨.bpl, .rel, 0x10, 2, false, true⟩,
   ⟨.brk, .imp, 0x00, 7, false, true⟩, ⟨.bvc, .rel, 0x50, 2, false, true⟩,
   ⟨.bvs, .rel, 0x70, 2, false, true⟩, ⟨.clc, .imp, 0x18, 2, false, true⟩,
   ⟨.cld, .imp, 0xD8, 2, false, true⟩, ⟨.cli, .imp, 0x58, 2, false, true⟩,
   ⟨.clv, .imp, 0xB8, 2, false, true⟩, ⟨.cmp, .imm, 0xC9, 2, false, true⟩,
   ⟨.cmp, .zp, 0xC5, 3, false, true⟩, ⟨.cmp, .zpx, 0xD5, 4, false, true⟩,
   ⟨.cmp, .abs, 0xCD, 4, false, true⟩, ⟨.cmp, .absx, 0xDD, 4, true, true⟩,
   ⟨.cmp, .absy, 0xD9, 4, true, true⟩, ⟨.cmp, .indx, 0xC1, 6, false, true⟩,
   ⟨.cmp, .indy, 0xD1, 5, true, true⟩, ⟨.cpx, .imm, 0xE0, 2, false, true⟩,
   ⟨.cpx, .zp, 0xE4, 3, false, true⟩, ⟨.cpx, .abs, 0xEC, 4, false, true⟩,
   ⟨.cpy, .imm, 0xC0, 2, false, true⟩, ⟨.cpy, .zp, 0xC4, 3, false, true⟩,
   ⟨.cpy, .abs, 0xCC, 4, false, true⟩, ⟨.dcp, .zp, 0xC7, 5, false, true⟩,
   ⟨.dcp, .zpx, 0xD7, 6, false, true⟩, ⟨.dcp, .abs, 0xCF, 6, false, true⟩,
   ⟨.dcp, .absx, 0xDF, 7, false, true⟩, ⟨.dcp, .absy, 0xDB, 7, false, true⟩,
   ⟨.dcp, .indx, 0xC3, 8, false, true⟩, ⟨.dcp, .indy, 0xD3, 8, false, true⟩]

/-- The table of R152, part 3 of 8: DEC to JAM. -/
def mnemonicTable3 : List TableEntry :=
  [⟨.dec, .zp, 0xC6, 5, false, true⟩, ⟨.dec, .zpx, 0xD6, 6, false, true⟩,
   ⟨.dec, .abs, 0xCE, 6, false, true⟩, ⟨.dec, .absx, 0xDE, 7, false, true⟩,
   ⟨.dex, .imp, 0xCA, 2, false, true⟩, ⟨.dey, .imp, 0x88, 2, false, true⟩,
   ⟨.eor, .imm, 0x49, 2, false, true⟩, ⟨.eor, .zp, 0x45, 3, false, true⟩,
   ⟨.eor, .zpx, 0x55, 4, false, true⟩, ⟨.eor, .abs, 0x4D, 4, false, true⟩,
   ⟨.eor, .absx, 0x5D, 4, true, true⟩, ⟨.eor, .absy, 0x59, 4, true, true⟩,
   ⟨.eor, .indx, 0x41, 6, false, true⟩, ⟨.eor, .indy, 0x51, 5, true, true⟩,
   ⟨.inc, .zp, 0xE6, 5, false, true⟩, ⟨.inc, .zpx, 0xF6, 6, false, true⟩,
   ⟨.inc, .abs, 0xEE, 6, false, true⟩, ⟨.inc, .absx, 0xFE, 7, false, true⟩,
   ⟨.inx, .imp, 0xE8, 2, false, true⟩, ⟨.iny, .imp, 0xC8, 2, false, true⟩,
   ⟨.isb, .zp, 0xE7, 5, false, true⟩, ⟨.isb, .zpx, 0xF7, 6, false, true⟩,
   ⟨.isb, .abs, 0xEF, 6, false, true⟩, ⟨.isb, .absx, 0xFF, 7, false, true⟩,
   ⟨.isb, .absy, 0xFB, 7, false, true⟩, ⟨.isb, .indx, 0xE3, 8, false, true⟩,
   ⟨.isb, .indy, 0xF3, 8, false, true⟩, ⟨.jam, .imp, 0x02, 0, false, false⟩,
   ⟨.jam, .imp, 0x12, 0, false, false⟩, ⟨.jam, .imp, 0x22, 0, false, false⟩,
   ⟨.jam, .imp, 0x32, 0, false, false⟩, ⟨.jam, .imp, 0x42, 0, false, false⟩]

/-- The table of R152, part 4 of 8: JAM to LDY. -/
def mnemonicTable4 : List TableEntry :=
  [⟨.jam, .imp, 0x52, 0, false, false⟩, ⟨.jam, .imp, 0x62, 0, false, false⟩,
   ⟨.jam, .imp, 0x72, 0, false, false⟩, ⟨.jam, .imp, 0x92, 0, false, false⟩,
   ⟨.jam, .imp, 0xB2, 0, false, false⟩, ⟨.jam, .imp, 0xD2, 0, false, false⟩,
   ⟨.jam, .imp, 0xF2, 0, false, false⟩, ⟨.jmp, .abs, 0x4C, 3, false, true⟩,
   ⟨.jmp, .ind, 0x6C, 5, false, true⟩, ⟨.jsr, .abs, 0x20, 6, false, true⟩,
   ⟨.las, .absy, 0xBB, 4, true, true⟩, ⟨.lax, .zp, 0xA7, 3, false, true⟩,
   ⟨.lax, .zpy, 0xB7, 4, false, true⟩, ⟨.lax, .abs, 0xAF, 4, false, true⟩,
   ⟨.lax, .absy, 0xBF, 4, true, true⟩, ⟨.lax, .indx, 0xA3, 6, false, true⟩,
   ⟨.lax, .indy, 0xB3, 5, true, true⟩, ⟨.lda, .imm, 0xA9, 2, false, true⟩,
   ⟨.lda, .zp, 0xA5, 3, false, true⟩, ⟨.lda, .zpx, 0xB5, 4, false, true⟩,
   ⟨.lda, .abs, 0xAD, 4, false, true⟩, ⟨.lda, .absx, 0xBD, 4, true, true⟩,
   ⟨.lda, .absy, 0xB9, 4, true, true⟩, ⟨.lda, .indx, 0xA1, 6, false, true⟩,
   ⟨.lda, .indy, 0xB1, 5, true, true⟩, ⟨.ldx, .imm, 0xA2, 2, false, true⟩,
   ⟨.ldx, .zp, 0xA6, 3, false, true⟩, ⟨.ldx, .zpy, 0xB6, 4, false, true⟩,
   ⟨.ldx, .abs, 0xAE, 4, false, true⟩, ⟨.ldx, .absy, 0xBE, 4, true, true⟩,
   ⟨.ldy, .imm, 0xA0, 2, false, true⟩, ⟨.ldy, .zp, 0xA4, 3, false, true⟩]

/-- The table of R152, part 5 of 8: LDY to NOP. -/
def mnemonicTable5 : List TableEntry :=
  [⟨.ldy, .zpx, 0xB4, 4, false, true⟩, ⟨.ldy, .abs, 0xAC, 4, false, true⟩,
   ⟨.ldy, .absx, 0xBC, 4, true, true⟩, ⟨.lsr, .acc, 0x4A, 2, false, true⟩,
   ⟨.lsr, .zp, 0x46, 5, false, true⟩, ⟨.lsr, .zpx, 0x56, 6, false, true⟩,
   ⟨.lsr, .abs, 0x4E, 6, false, true⟩, ⟨.lsr, .absx, 0x5E, 7, false, true⟩,
   ⟨.lxa, .imm, 0xAB, 0, false, false⟩, ⟨.nop, .imp, 0x1A, 2, false, true⟩,
   ⟨.nop, .imp, 0x3A, 2, false, true⟩, ⟨.nop, .imp, 0x5A, 2, false, true⟩,
   ⟨.nop, .imp, 0x7A, 2, false, true⟩, ⟨.nop, .imp, 0xDA, 2, false, true⟩,
   ⟨.nop, .imp, 0xEA, 2, false, true⟩, ⟨.nop, .imp, 0xFA, 2, false, true⟩,
   ⟨.nop, .imm, 0x80, 2, false, true⟩, ⟨.nop, .imm, 0x82, 2, false, true⟩,
   ⟨.nop, .imm, 0x89, 2, false, true⟩, ⟨.nop, .imm, 0xC2, 2, false, true⟩,
   ⟨.nop, .imm, 0xE2, 2, false, true⟩, ⟨.nop, .zp, 0x04, 3, false, true⟩,
   ⟨.nop, .zp, 0x44, 3, false, true⟩, ⟨.nop, .zp, 0x64, 3, false, true⟩,
   ⟨.nop, .zpx, 0x14, 4, false, true⟩, ⟨.nop, .zpx, 0x34, 4, false, true⟩,
   ⟨.nop, .zpx, 0x54, 4, false, true⟩, ⟨.nop, .zpx, 0x74, 4, false, true⟩,
   ⟨.nop, .zpx, 0xD4, 4, false, true⟩, ⟨.nop, .zpx, 0xF4, 4, false, true⟩,
   ⟨.nop, .abs, 0x0C, 4, false, true⟩, ⟨.nop, .absx, 0x1C, 4, true, true⟩]

/-- The table of R152, part 6 of 8: NOP to ROR. -/
def mnemonicTable6 : List TableEntry :=
  [⟨.nop, .absx, 0x3C, 4, true, true⟩, ⟨.nop, .absx, 0x5C, 4, true, true⟩,
   ⟨.nop, .absx, 0x7C, 4, true, true⟩, ⟨.nop, .absx, 0xDC, 4, true, true⟩,
   ⟨.nop, .absx, 0xFC, 4, true, true⟩, ⟨.ora, .imm, 0x09, 2, false, true⟩,
   ⟨.ora, .zp, 0x05, 3, false, true⟩, ⟨.ora, .zpx, 0x15, 4, false, true⟩,
   ⟨.ora, .abs, 0x0D, 4, false, true⟩, ⟨.ora, .absx, 0x1D, 4, true, true⟩,
   ⟨.ora, .absy, 0x19, 4, true, true⟩, ⟨.ora, .indx, 0x01, 6, false, true⟩,
   ⟨.ora, .indy, 0x11, 5, true, true⟩, ⟨.pha, .imp, 0x48, 3, false, true⟩,
   ⟨.php, .imp, 0x08, 3, false, true⟩, ⟨.pla, .imp, 0x68, 4, false, true⟩,
   ⟨.plp, .imp, 0x28, 4, false, true⟩, ⟨.rla, .zp, 0x27, 5, false, true⟩,
   ⟨.rla, .zpx, 0x37, 6, false, true⟩, ⟨.rla, .abs, 0x2F, 6, false, true⟩,
   ⟨.rla, .absx, 0x3F, 7, false, true⟩, ⟨.rla, .absy, 0x3B, 7, false, true⟩,
   ⟨.rla, .indx, 0x23, 8, false, true⟩, ⟨.rla, .indy, 0x33, 8, false, true⟩,
   ⟨.rol, .acc, 0x2A, 2, false, true⟩, ⟨.rol, .zp, 0x26, 5, false, true⟩,
   ⟨.rol, .zpx, 0x36, 6, false, true⟩, ⟨.rol, .abs, 0x2E, 6, false, true⟩,
   ⟨.rol, .absx, 0x3E, 7, false, true⟩, ⟨.ror, .acc, 0x6A, 2, false, true⟩,
   ⟨.ror, .zp, 0x66, 5, false, true⟩, ⟨.ror, .zpx, 0x76, 6, false, true⟩]

/-- The table of R152, part 7 of 8: ROR to SLO. -/
def mnemonicTable7 : List TableEntry :=
  [⟨.ror, .abs, 0x6E, 6, false, true⟩, ⟨.ror, .absx, 0x7E, 7, false, true⟩,
   ⟨.rra, .zp, 0x67, 5, false, true⟩, ⟨.rra, .zpx, 0x77, 6, false, true⟩,
   ⟨.rra, .abs, 0x6F, 6, false, true⟩, ⟨.rra, .absx, 0x7F, 7, false, true⟩,
   ⟨.rra, .absy, 0x7B, 7, false, true⟩, ⟨.rra, .indx, 0x63, 8, false, true⟩,
   ⟨.rra, .indy, 0x73, 8, false, true⟩, ⟨.rti, .imp, 0x40, 6, false, true⟩,
   ⟨.rts, .imp, 0x60, 6, false, true⟩, ⟨.sax, .zp, 0x87, 3, false, true⟩,
   ⟨.sax, .zpy, 0x97, 4, false, true⟩, ⟨.sax, .abs, 0x8F, 4, false, true⟩,
   ⟨.sax, .indx, 0x83, 6, false, true⟩, ⟨.sbc, .imm, 0xE9, 2, false, true⟩,
   ⟨.sbc, .imm, 0xEB, 2, false, true⟩, ⟨.sbc, .zp, 0xE5, 3, false, true⟩,
   ⟨.sbc, .zpx, 0xF5, 4, false, true⟩, ⟨.sbc, .abs, 0xED, 4, false, true⟩,
   ⟨.sbc, .absx, 0xFD, 4, true, true⟩, ⟨.sbc, .absy, 0xF9, 4, true, true⟩,
   ⟨.sbc, .indx, 0xE1, 6, false, true⟩, ⟨.sbc, .indy, 0xF1, 5, true, true⟩,
   ⟨.sec, .imp, 0x38, 2, false, true⟩, ⟨.sed, .imp, 0xF8, 2, false, true⟩,
   ⟨.sei, .imp, 0x78, 2, false, true⟩, ⟨.shx, .absy, 0x9E, 0, false, false⟩,
   ⟨.shy, .absx, 0x9C, 0, false, false⟩, ⟨.slo, .zp, 0x07, 5, false, true⟩,
   ⟨.slo, .zpx, 0x17, 6, false, true⟩, ⟨.slo, .abs, 0x0F, 6, false, true⟩]

/-- The table of R152, part 8 of 8: SLO to XAA. -/
def mnemonicTable8 : List TableEntry :=
  [⟨.slo, .absx, 0x1F, 7, false, true⟩, ⟨.slo, .absy, 0x1B, 7, false, true⟩,
   ⟨.slo, .indx, 0x03, 8, false, true⟩, ⟨.slo, .indy, 0x13, 8, false, true⟩,
   ⟨.sre, .zp, 0x47, 5, false, true⟩, ⟨.sre, .zpx, 0x57, 6, false, true⟩,
   ⟨.sre, .abs, 0x4F, 6, false, true⟩, ⟨.sre, .absx, 0x5F, 7, false, true⟩,
   ⟨.sre, .absy, 0x5B, 7, false, true⟩, ⟨.sre, .indx, 0x43, 8, false, true⟩,
   ⟨.sre, .indy, 0x53, 8, false, true⟩, ⟨.sta, .zp, 0x85, 3, false, true⟩,
   ⟨.sta, .zpx, 0x95, 4, false, true⟩, ⟨.sta, .abs, 0x8D, 4, false, true⟩,
   ⟨.sta, .absx, 0x9D, 5, false, true⟩, ⟨.sta, .absy, 0x99, 5, false, true⟩,
   ⟨.sta, .indx, 0x81, 6, false, true⟩, ⟨.sta, .indy, 0x91, 6, false, true⟩,
   ⟨.stx, .zp, 0x86, 3, false, true⟩, ⟨.stx, .zpy, 0x96, 4, false, true⟩,
   ⟨.stx, .abs, 0x8E, 4, false, true⟩, ⟨.sty, .zp, 0x84, 3, false, true⟩,
   ⟨.sty, .zpx, 0x94, 4, false, true⟩, ⟨.sty, .abs, 0x8C, 4, false, true⟩,
   ⟨.tas, .absy, 0x9B, 0, false, false⟩, ⟨.tax, .imp, 0xAA, 2, false, true⟩,
   ⟨.tay, .imp, 0xA8, 2, false, true⟩, ⟨.tsx, .imp, 0xBA, 2, false, true⟩,
   ⟨.txa, .imp, 0x8A, 2, false, true⟩, ⟨.txs, .imp, 0x9A, 2, false, true⟩,
   ⟨.tya, .imp, 0x98, 2, false, true⟩, ⟨.xaa, .imm, 0x8B, 0, false, false⟩]

/-- The opcodes and base costs by mnemonic and mode (R152), in the order the spec lists them. -/
def mnemonicTable : List TableEntry :=
  mnemonicTable1 ++ mnemonicTable2 ++ mnemonicTable3 ++ mnemonicTable4 ++ mnemonicTable5 ++ mnemonicTable6 ++ mnemonicTable7 ++ mnemonicTable8

/-- The length of an instruction by mode (R126). -/
def modeLength : Mode → Nat
  | .imp => 1
  | .acc => 1
  | .imm => 2
  | .zp => 2
  | .zpx => 2
  | .zpy => 2
  | .abs => 3
  | .absx => 3
  | .absy => 3
  | .ind => 3
  | .indx => 2
  | .indy => 2
  | .rel => 2

/-- An instruction's opcode byte by mode is that of `rows`, and it has no other mode. -/
def OpcodesAre (mk : Operand → Instr) (rows : List (Mode × Byte)) : Prop :=
  ∀ o, (mk o).opcode = rows.lookup o.mode ∧ ((mk o).wellFormed = true ↔ (rows.lookup o.mode).isSome = true)

/-- How far a step advances PC before the instruction's semantics run (R121, R401). -/
def advance (i : Instr) : Nat := if i.implemented then (encode i).length else 1

/-- How many of an instruction's bytes the step reads on the bus (R124, R332). -/
def bytesRead : Instr → Nat
  | .nopImm _ _ => 1
  | i => advance i

/-- The instructions that write a flag (R35). -/
def flagWriters : Flag → List Mnemonic
  | .c => [.adc, .sbc, .cmp, .cpx, .cpy, .asl, .lsr, .rol, .ror, .clc, .sec, .plp, .rti, .slo, .rla, .sre, .rra,
      .dcp, .isb, .anc, .alr, .arr, .axs]
  | .z => [.adc, .sbc, .and, .ora, .eor, .bit, .cmp, .cpx, .cpy, .inc, .dec, .inx, .iny, .dex, .dey, .asl, .lsr,
      .rol, .ror, .lda, .ldx, .ldy, .tax, .tay, .txa, .tya, .tsx, .pla, .plp, .rti, .slo, .rla, .sre, .rra, .lax,
      .dcp, .isb, .anc, .alr, .arr, .axs, .las]
  | .n => [.adc, .sbc, .and, .ora, .eor, .bit, .cmp, .cpx, .cpy, .inc, .dec, .inx, .iny, .dex, .dey, .asl, .lsr,
      .rol, .ror, .lda, .ldx, .ldy, .tax, .tay, .txa, .tya, .tsx, .pla, .plp, .rti, .slo, .rla, .sre, .rra, .lax,
      .dcp, .isb, .anc, .alr, .arr, .axs, .las]
  | .v => [.adc, .sbc, .bit, .clv, .plp, .rti, .rra, .isb, .arr]
  | .i => [.sei, .cli, .plp, .rti]
  | .d => [.sed, .cld, .plp, .rti]
  | .b => [.brk, .plp, .rti]

/-- The instructions that write a register: for X and Y the lists of R21 and R22, for SP that of R23, and for A
the instructions whose rules write it. -/
def regWriters : Reg → List Mnemonic
  | .a => [.lda, .txa, .tya, .pla, .adc, .sbc, .and, .ora, .eor, .asl, .lsr, .rol, .ror, .slo, .rla, .sre, .rra,
      .isb, .lax, .anc, .alr, .arr, .las]
  | .x => [.ldx, .tax, .tsx, .inx, .dex, .lax, .axs, .las]
  | .y => [.ldy, .tay, .iny, .dey]
  | .sp => [.txs, .las, .pha, .php, .pla, .plp, .jsr, .rts, .rti]

/-- The instructions that can leave PC elsewhere than at the next instruction (44_control.md), those behind the
unimplemented marker apart. -/
def pcWriters : List Mnemonic := [.jmp, .jsr, .rts, .rti, .bpl, .bmi, .bvc, .bvs, .bcc, .bcs, .bne, .beq]

end Sys2Proof.Machine
end

