-- ==== Sys2Proof/Certificates/Slice0/Obligations.lean ====
section
/-! DEFINITION. The statements for the provers, one Prop each, from the numbered rules of the spec. -/

open Sys2Proof Sys2Proof.Machine

/-! ### Encoding and fetch -/

/-- R125, R126, R152: the bytes of every well-formed instruction, at every value of its operands and followed by any
bytes, decode to that instruction and leave those bytes. -/
def Obligations.DecodeOfEncode : Prop :=
  ∀ (i : Instr) (rest : List Byte), i.wellFormed = true → decode (encode i ++ rest) = .ok (i, rest)

/-- R124, R125: three bytes always decode; the opcode alone fixes the mnemonic and the length; what is read is a
well-formed instruction, and its encoding is the bytes read. -/
def Obligations.EncodeOfDecode : Prop :=
  ∀ (op b1 b2 : Byte) (rest : List Byte), ∃ i,
    decode (op :: b1 :: b2 :: rest) = .ok (i, (op :: b1 :: b2 :: rest).drop (descriptor op).length) ∧
    i.wellFormed = true ∧ i.mnemonic = (descriptor op).mnemonic ∧
    encode i = (op :: b1 :: b2 :: rest).take (descriptor op).length ∧
    1 ≤ (descriptor op).length ∧ (descriptor op).length ≤ 3

/-- R152, R153, R151: each entry of the table of R152 is the opcode map's row for its byte, and every byte has exactly
one entry; exactly the nineteen opcodes of R153 are behind the unimplemented marker, and exactly those of R151 are
page-boundary-sensitive. -/
def Obligations.OpcodeTable : Prop :=
  (∀ e ∈ mnemonicTable, descriptor e.op = ⟨e.mnemonic, e.mode, modeLength e.mode, e.cycles, e.plus, e.implemented⟩) ∧
  (∀ op : Byte, (mnemonicTable.filter fun e => e.op == op).length = 1) ∧
  (∀ op : Byte, (descriptor op).implemented = false ↔
    op ∈ ([0x02, 0x12, 0x22, 0x32, 0x42, 0x52, 0x62, 0x72, 0x92, 0xB2, 0xD2, 0xF2, 0x8B, 0xAB, 0x93, 0x9F, 0x9B,
      0x9C, 0x9E] : List Byte)) ∧
  (∀ op : Byte, (descriptor op).pagePenalty = true ↔
    op ∈ ([0x1D, 0x19, 0x11, 0x3D, 0x39, 0x31, 0x5D, 0x59, 0x51, 0x7D, 0x79, 0x71, 0xBD, 0xB9, 0xB1, 0xDD, 0xD9,
      0xD1, 0xFD, 0xF9, 0xF1, 0xBE, 0xBC, 0xBF, 0xB3, 0xBB, 0x1C, 0x3C, 0x5C, 0x7C, 0xDC, 0xFC] : List Byte))

/-- Words written out from R150 and R126 decode to the instructions they stand for. A sanity statement. -/
def Obligations.DecodeWords : Prop :=
  decode [0xA9, 0x00] = .ok (.lda (.imm 0x00), []) ∧
  decode [0x8D, 0x34, 0x12] = .ok (.sta (.abs 0x1234), []) ∧
  decode [0x68] = .ok (.pla, []) ∧
  decode [0x71, 0x80] = .ok (.adc (.indy 0x80), []) ∧
  decode [0x3E, 0xFF, 0x00] = .ok (.rol (.absx 0x00FF), []) ∧
  decode [0x6C, 0xFF, 0x00] = .ok (.jmpInd 0x00FF, []) ∧
  decode [0xF0, 0x10] = .ok (.beq 0x10, []) ∧
  decode [0xB8] = .ok (.clv, []) ∧
  decode [0x83, 0x20] = .ok (.sax (.indx 0x20), []) ∧
  decode [0x02] = .ok (.jam 0x02, [])

/-- The costs by mode that R152 and R151 give the classes of instructions with an operand. -/
def Obligations.OperandCosts : Prop :=
  (∀ mk ∈ [Instr.lda, .ldx, .ldy, .adc, .sbc, .cmp, .cpx, .cpy, .and, .ora, .eor, .bit, .lax], ∀ o crossed,
    (mk o).wellFormed = true →
      instrCost (mk o) crossed = readCycles o.mode + (if o.mode ∈ pagedModes ∧ crossed = true then 1 else 0)) ∧
  (∀ op o crossed, (Instr.nopMem op o).wellFormed = true →
      instrCost (.nopMem op o) crossed =
        readCycles o.mode + (if o.mode ∈ pagedModes ∧ crossed = true then 1 else 0)) ∧
  (∀ w crossed, instrCost (.las w) crossed = 4 + (if crossed = true then 1 else 0)) ∧
  (∀ mk ∈ [Instr.sta, .stx, .sty, .sax], ∀ o crossed,
    (mk o).wellFormed = true → instrCost (mk o) crossed = storeCycles o.mode) ∧
  (∀ mk ∈ [Instr.inc, .dec, .asl, .lsr, .rol, .ror, .slo, .rla, .sre, .rra, .dcp, .isb], ∀ o crossed,
    (mk o).wellFormed = true → instrCost (mk o) crossed = modifyCycles o.mode)

/-- A STEP RUNS THE DECODED INSTRUCTION (R120, R121). No fault is recorded, no byte the step reads is at an address
an external agent answers, and the bytes at PC decode to `i`: the step is `exec i` of the state in which PC has
advanced past the instruction (past the opcode alone for an unimplemented one, R401) and the stop signal of the step
before is gone. -/
def Obligations.StepRunsDecoded : Prop :=
  ∀ (s : State) (i : Instr) (rest : List Byte), s.fault = none →
    (∀ k, k < bytesRead i → answered (s.pc + BitVec.ofNat 16 k) = false) →
    decode [peek s s.pc, peek s (s.pc + 1), peek s (s.pc + 2)] = .ok (i, rest) →
    step s = exec i { s with stopped := false, pc := s.pc + BitVec.ofNat 16 (advance i) }

/-- R121, R70: at every address, peripheral registers included, a step reads the opcode and then each operand byte
once, through the bus and at increasing addresses modulo 2^16, and runs what they decode to. The opcodes whose
operand bytes are not read are left to StepsThatReadNoOperand. -/
def Obligations.StepFetchesThroughBus : Prop :=
  ∀ (s s1 : State) (op : Byte), s.fault = none → busRead s.pc { s with stopped := false } = (op, s1) →
    (descriptor op).implemented = true → op ∉ nopImmOpcodes →
    ((descriptor op).length = 1 → ∃ i, decode [op] = .ok (i, []) ∧ step s = exec i { s1 with pc := s.pc + 1 }) ∧
    (∀ b1 s2, busRead (s.pc + 1) s1 = (b1, s2) →
      ((descriptor op).length = 2 →
        ∃ i, decode [op, b1] = .ok (i, []) ∧ step s = exec i { s2 with pc := s.pc + 2 }) ∧
      (∀ b2 s3, busRead (s.pc + 2) s2 = (b2, s3) → (descriptor op).length = 3 →
        ∃ i, decode [op, b1, b2] = .ok (i, []) ∧ step s = exec i { s3 with pc := s.pc + 3 }))

/-- R401, R332: the opcodes whose operand bytes no step reads. One behind the unimplemented marker is recorded, with
the address it was fetched from, after the opcode fetch and the advance of PC by one, and nothing else is done: no
charge, no tick. An immediate NOP advances PC by two and is charged 2 cycles, and nothing else is done. -/
def Obligations.StepsThatReadNoOperand : Prop :=
  ∀ (s s1 : State) (op : Byte), s.fault = none → busRead s.pc { s with stopped := false } = (op, s1) →
    ((descriptor op).implemented = false →
      step s = .next { s1 with pc := s.pc + 1, fault := some (.unimplementedOpcode op s.pc) }) ∧
    (op ∈ nopImmOpcodes →
      step s = .next { s1 with pc := s.pc + 2, cycles := s1.cycles + 2, events := .videoTick 6 :: s1.events })

/-! ### Addressing modes and operand access -/

/-- R131 to R136 and R139: what the modes without a memory pointer resolve to, with no access; the page crossed is a
change of the high byte. -/
def Obligations.DirectModes : Prop :=
  ∀ (s : State) (b : Byte) (w : Word),
    resolve .acc s = ⟨0, false, s⟩ ∧
    resolve (.imm b) s = ⟨s.pc - 1, false, s⟩ ∧
    resolve (.abs w) s = ⟨w, false, s⟩ ∧
    (∃ a, resolve (.zp b) s = ⟨a, false, s⟩ ∧ a.toNat = b.toNat) ∧
    (∃ a, resolve (.zpx b) s = ⟨a, false, s⟩ ∧ a.toNat = (b.toNat + s.x.toNat) % 256) ∧
    (∃ a, resolve (.zpy b) s = ⟨a, false, s⟩ ∧ a.toNat = (b.toNat + s.y.toNat) % 256) ∧
    (∃ a c, resolve (.absx w) s = ⟨a, c, s⟩ ∧ a.toNat = (w.toNat + s.x.toNat) % 65536 ∧
      (c = true ↔ a.toNat / 256 ≠ w.toNat / 256)) ∧
    (∃ a c, resolve (.absy w) s = ⟨a, c, s⟩ ∧ a.toNat = (w.toNat + s.y.toNat) % 65536 ∧
      (c = true ↔ a.toNat / 256 ≠ w.toNat / 256)) ∧
    (∃ a c, resolve (.rel b) s = ⟨a, c, s⟩ ∧ (a.toNat : Int) = ((s.pc.toNat : Int) + b.toInt) % 65536 ∧
      (c = true ↔ a.toNat / 256 ≠ s.pc.toNat / 256))

/-- R137, R138: INDX adds X in page 0 and reads its pointer there, both bytes within page 0; INDY reads its pointer
in page 0 and then adds Y. The two reads are of RAM and have no effect. -/
def Obligations.PointerModes : Prop :=
  ∀ (s : State) (b : Byte),
    (∃ a, resolve (.indx b) s = ⟨a, false, s⟩ ∧
      a.toNat = (peek s (BitVec.ofNat 16 ((b.toNat + s.x.toNat) % 256))).toNat +
        256 * (peek s (BitVec.ofNat 16 ((b.toNat + s.x.toNat + 1) % 256))).toNat) ∧
    (∃ base a c, resolve (.indy b) s = ⟨a, c, s⟩ ∧
      base = (peek s (BitVec.ofNat 16 b.toNat)).toNat +
        256 * (peek s (BitVec.ofNat 16 ((b.toNat + 1) % 256))).toNat ∧
      a.toNat = (base + s.y.toNat) % 65536 ∧ (c = true ↔ a.toNat / 256 ≠ base / 256))

/-- R140: an accumulator operand is A and an immediate one its byte, with no access; any other is one bus read of
the resolved address, after the accesses that resolved it. The immediate byte was read by the fetch (log 11). -/
def Obligations.OperandAccess : Prop :=
  ∀ (s : State),
    (operandValue .acc s = s.a ∧ operandState .acc s = s) ∧
    (∀ b, operandValue (.imm b) s = b ∧ operandState (.imm b) s = s) ∧
    (∀ o, o ≠ .acc → (∀ b, o ≠ .imm b) →
      (operandValue o s, operandState o s) = busRead (effectiveAddress o s) (resolve o s).state ∧
      (answered (effectiveAddress o s) = false → o.mode ≠ .ind →
        operandValue o s = peek s (effectiveAddress o s) ∧ operandState o s = s))

/-! ### Loads, stores, transfers -/

/-- R200 to R202. -/
def Obligations.Loads : Prop :=
  OpcodesAre .lda [(.indx, 0xA1), (.zp, 0xA5), (.imm, 0xA9), (.abs, 0xAD), (.indy, 0xB1), (.zpx, 0xB5), (.absy,
    0xB9), (.absx, 0xBD)] ∧
  OpcodesAre .ldx [(.imm, 0xA2), (.zp, 0xA6), (.abs, 0xAE), (.zpy, 0xB6), (.absy, 0xBE)] ∧
  OpcodesAre .ldy [(.imm, 0xA0), (.zp, 0xA4), (.abs, 0xAC), (.zpx, 0xB4), (.absx, 0xBC)] ∧
  ∀ (o : Operand) (s : State),
    (∃ t, exec (.lda o) s = .next t ∧ ReadOutcome (.lda o) o [.a] [.n, .z] s t ∧
      t.a = operandValue o s ∧ NZOf (operandValue o s) t) ∧
    (∃ t, exec (.ldx o) s = .next t ∧ ReadOutcome (.ldx o) o [.x] [.n, .z] s t ∧
      t.x = operandValue o s ∧ NZOf (operandValue o s) t) ∧
    (∃ t, exec (.ldy o) s = .next t ∧ ReadOutcome (.ldy o) o [.y] [.n, .z] s t ∧
      t.y = operandValue o s ∧ NZOf (operandValue o s) t)

/-- R203 to R205 and R338: away from the ROM window the byte is stored and no flag or register written; in the ROM
window the fault is recorded and nothing else happens. That a store into the ROM window answers a next state with the
fault recorded is the model's reading, log 3, and that it replaces a fault recorded before is its choice, log 16. -/
def Obligations.Stores : Prop :=
  OpcodesAre .sta [(.indx, 0x81), (.zp, 0x85), (.abs, 0x8D), (.indy, 0x91), (.zpx, 0x95), (.absy, 0x99), (.absx,
    0x9D)] ∧
  OpcodesAre .stx [(.zp, 0x86), (.abs, 0x8E), (.zpy, 0x96)] ∧
  OpcodesAre .sty [(.zp, 0x84), (.abs, 0x8C), (.zpx, 0x94)] ∧
  OpcodesAre .sax [(.indx, 0x83), (.zp, 0x87), (.abs, 0x8F), (.zpy, 0x97)] ∧
  ∀ (o : Operand) (s : State),
    ((Instr.sta o).wellFormed = true →
      (inRom (effectiveAddress o s) = false →
        ∃ t, exec (.sta o) s = .next t ∧ StoreOutcome (.sta o) o s.a s [] [] s t) ∧
      (inRom (effectiveAddress o s) = true → exec (.sta o) s = .next (romFault o s.a s))) ∧
    ((Instr.stx o).wellFormed = true →
      (inRom (effectiveAddress o s) = false →
        ∃ t, exec (.stx o) s = .next t ∧ StoreOutcome (.stx o) o s.x s [] [] s t) ∧
      (inRom (effectiveAddress o s) = true → exec (.stx o) s = .next (romFault o s.x s))) ∧
    ((Instr.sty o).wellFormed = true →
      (inRom (effectiveAddress o s) = false →
        ∃ t, exec (.sty o) s = .next t ∧ StoreOutcome (.sty o) o s.y s [] [] s t) ∧
      (inRom (effectiveAddress o s) = true → exec (.sty o) s = .next (romFault o s.y s))) ∧
    ((Instr.sax o).wellFormed = true →
      (inRom (effectiveAddress o s) = false →
        ∃ t, exec (.sax o) s = .next t ∧ StoreOutcome (.sax o) o (s.a &&& s.x) s [] [] s t) ∧
      (inRom (effectiveAddress o s) = true → exec (.sax o) s = .next (romFault o (s.a &&& s.x) s)))

/-- R206 to R211: TXS alone writes no flag. -/
def Obligations.Transfers : Prop :=
  encode .tax = [0xAA] ∧ encode .tay = [0xA8] ∧ encode .txa = [0x8A] ∧ encode .tya = [0x98] ∧ encode .tsx =
  [0xBA] ∧ encode .txs = [0x9A] ∧
  ∀ (s : State),
    (∃ t, exec .tax s = .next t ∧ PlainOutcome 2 [.x] [.n, .z] s t ∧ t.pc = s.pc ∧ t.x = s.a ∧ NZOf s.a t) ∧
    (∃ t, exec .tay s = .next t ∧ PlainOutcome 2 [.y] [.n, .z] s t ∧ t.pc = s.pc ∧ t.y = s.a ∧ NZOf s.a t) ∧
    (∃ t, exec .txa s = .next t ∧ PlainOutcome 2 [.a] [.n, .z] s t ∧ t.pc = s.pc ∧ t.a = s.x ∧ NZOf s.x t) ∧
    (∃ t, exec .tya s = .next t ∧ PlainOutcome 2 [.a] [.n, .z] s t ∧ t.pc = s.pc ∧ t.a = s.y ∧ NZOf s.y t) ∧
    (∃ t, exec .tsx s = .next t ∧ PlainOutcome 2 [.x] [.n, .z] s t ∧ t.pc = s.pc ∧ t.x = s.sp ∧ NZOf s.sp t) ∧
    (∃ t, exec .txs s = .next t ∧ PlainOutcome 2 [.sp] [] s t ∧ t.pc = s.pc ∧ t.sp = s.x)

/-! ### Stack -/

/-- R230, R231: PHA pushes A, PHP pushes P with B and U set. -/
def Obligations.Pushes : Prop :=
  encode .pha = [0x48] ∧ encode .php = [0x08] ∧
  ∀ (s : State),
    (∃ t, exec .pha s = .next t ∧ PushOutcome s.a s t) ∧
    (∃ t, exec .php s = .next t ∧ PushOutcome (s.p ||| 0x30) s t)

/-- R232, R233: the byte pulled is at 0x0100 + SP + 1; PLP clears B, keeps U at 1 and takes the other six bits. -/
def Obligations.Pulls : Prop :=
  encode .pla = [0x68] ∧ encode .plp = [0x28] ∧
  ∀ (s : State) (v : Byte), v = peek s (0x0100 + (s.sp + 1).setWidth 16) →
    (∃ t, exec .pla s = .next t ∧ PlainOutcome 4 [.a, .sp] [.n, .z] s t ∧ t.pc = s.pc ∧
      t.sp = s.sp + 1 ∧ t.a = v ∧ NZOf v t) ∧
    (∃ t, exec .plp s = .next t ∧ Frame [.sp] [.n, .v, .b, .d, .i, .z, .c] s t ∧ SameMemory s t ∧
      Charged 4 s s t ∧ t.pc = s.pc ∧ t.sp = s.sp + 1 ∧ t.p = (v &&& 0xCF) ||| 0x20)

/-! ### Arithmetic -/

/-- R240 to R242 and R346, written in natural numbers: ADC adds, SBC (either opcode) subtracts with borrow. -/
def Obligations.AddSubtract : Prop :=
  OpcodesAre .adc [(.indx, 0x61), (.zp, 0x65), (.imm, 0x69), (.abs, 0x6D), (.indy, 0x71), (.zpx, 0x75), (.absy,
    0x79), (.absx, 0x7D)] ∧
  OpcodesAre .sbc [(.indx, 0xE1), (.zp, 0xE5), (.imm, 0xE9), (.abs, 0xED), (.indy, 0xF1), (.zpx, 0xF5), (.absy,
    0xF9), (.absx, 0xFD)] ∧
  (∀ b, encode (.sbcEB b) = [0xEB, b]) ∧
  ∀ (o : Operand) (b : Byte) (s : State) (c : Nat), c = (if s.flag .c then 1 else 0) →
    (∃ t, exec (.adc o) s = .next t ∧ ReadOutcome (.adc o) o [.a] [.c, .v, .n, .z] s t ∧
      t.a.toNat = (s.a.toNat + (operandValue o s).toNat + c) % 256 ∧
      (t.flag .c = true ↔ s.a.toNat + (operandValue o s).toNat + c > 0xFF) ∧
      t.flag .v = ((t.a ^^^ s.a) &&& (t.a ^^^ operandValue o s)).getLsbD 7 ∧ NZOf t.a t) ∧
    (∃ t, exec (.sbc o) s = .next t ∧ ReadOutcome (.sbc o) o [.a] [.c, .v, .n, .z] s t ∧
      t.a = s.a - operandValue o s - BitVec.ofNat 8 (1 - c) ∧
      (t.flag .c = true ↔ (operandValue o s).toNat + (1 - c) ≤ s.a.toNat) ∧
      t.flag .v = ((t.a ^^^ s.a) &&& (t.a ^^^ ~~~(operandValue o s))).getLsbD 7 ∧ NZOf t.a t) ∧
    (∃ t, exec (.sbcEB b) s = .next t ∧ ReadOutcome (.sbcEB b) (.imm b) [.a] [.c, .v, .n, .z] s t ∧
      t.a = s.a - b - BitVec.ofNat 8 (1 - c) ∧ (t.flag .c = true ↔ b.toNat + (1 - c) ≤ s.a.toNat) ∧
      t.flag .v = ((t.a ^^^ s.a) &&& (t.a ^^^ ~~~b)).getLsbD 7 ∧ NZOf t.a t)

/-- R253's reading of V: it is the signed overflow of the sum, or of the difference. -/
def Obligations.OverflowIsSigned : Prop :=
  ∀ (o : Operand) (s : State) (c : Int), c = (if s.flag .c then 1 else 0) →
    (∃ t, exec (.adc o) s = .next t ∧
      (t.flag .v = false ↔ -128 ≤ s.a.toInt + (operandValue o s).toInt + c ∧
        s.a.toInt + (operandValue o s).toInt + c ≤ 127)) ∧
    (∃ t, exec (.sbc o) s = .next t ∧
      (t.flag .v = false ↔ -128 ≤ s.a.toInt - (operandValue o s).toInt - (1 - c) ∧
        s.a.toInt - (operandValue o s).toInt - (1 - c) ≤ 127))

/-- R327, R240: P.D has no effect on ADC, SBC, the undocumented SBC, RRA and ISB. With D set or cleared beforehand
such an instruction ends in the same state but for D itself. -/
def Obligations.DecimalHasNoEffect : Prop :=
  ∀ (i : Instr) (s : State) (d : Bool), i.mnemonic ∈ [Mnemonic.adc, .sbc, .rra, .isb] →
    ∃ t, exec i s = .next t ∧ exec i (s.setFlag .d d) = .next (t.setFlag .d d)

/-- R243 to R246. -/
def Obligations.Compares : Prop :=
  OpcodesAre .cmp [(.indx, 0xC1), (.zp, 0xC5), (.imm, 0xC9), (.abs, 0xCD), (.indy, 0xD1), (.zpx, 0xD5), (.absy,
    0xD9), (.absx, 0xDD)] ∧
  OpcodesAre .cpx [(.imm, 0xE0), (.zp, 0xE4), (.abs, 0xEC)] ∧
  OpcodesAre .cpy [(.imm, 0xC0), (.zp, 0xC4), (.abs, 0xCC)] ∧
  ∀ (o : Operand) (s : State) (v : Byte), v = operandValue o s →
    (∃ t, exec (.cmp o) s = .next t ∧ ReadOutcome (.cmp o) o [] [.c, .z, .n] s t ∧
      (t.flag .c = true ↔ v.toNat ≤ s.a.toNat) ∧ (t.flag .z = true ↔ s.a = v) ∧
      t.flag .n = (s.a - v).getLsbD 7) ∧
    (∃ t, exec (.cpx o) s = .next t ∧ ReadOutcome (.cpx o) o [] [.c, .z, .n] s t ∧
      (t.flag .c = true ↔ v.toNat ≤ s.x.toNat) ∧ (t.flag .z = true ↔ s.x = v) ∧
      t.flag .n = (s.x - v).getLsbD 7) ∧
    (∃ t, exec (.cpy o) s = .next t ∧ ReadOutcome (.cpy o) o [] [.c, .z, .n] s t ∧
      (t.flag .c = true ↔ v.toNat ≤ s.y.toNat) ∧ (t.flag .z = true ↔ s.y = v) ∧
      t.flag .n = (s.y - v).getLsbD 7)

/-- R247, R248: INC and DEC, away from the ROM window and in it. That a store into the ROM window answers a next state
with the fault recorded is the model's reading, log 3, and that it replaces a fault recorded before is its choice, log
16. -/
def Obligations.IncDecMemory : Prop :=
  OpcodesAre .inc [(.zp, 0xE6), (.abs, 0xEE), (.zpx, 0xF6), (.absx, 0xFE)] ∧
  OpcodesAre .dec [(.zp, 0xC6), (.abs, 0xCE), (.zpx, 0xD6), (.absx, 0xDE)] ∧
  ∀ (o : Operand) (s : State) (v : Byte), v = operandValue o s →
    ((Instr.inc o).wellFormed = true →
      (inRom (effectiveAddress o s) = false →
        ∃ t, exec (.inc o) s = .next t ∧ StoreOutcome (.inc o) o (v + 1) (operandState o s) [] [.n, .z] s t ∧
          NZOf (v + 1) t) ∧
      (inRom (effectiveAddress o s) = true → exec (.inc o) s = .next (romFault o (v + 1) s))) ∧
    ((Instr.dec o).wellFormed = true →
      (inRom (effectiveAddress o s) = false →
        ∃ t, exec (.dec o) s = .next t ∧ StoreOutcome (.dec o) o (v - 1) (operandState o s) [] [.n, .z] s t ∧
          NZOf (v - 1) t) ∧
      (inRom (effectiveAddress o s) = true → exec (.dec o) s = .next (romFault o (v - 1) s)))

/-- R249 to R252. -/
def Obligations.IncDecRegister : Prop :=
  encode .inx = [0xE8] ∧ encode .iny = [0xC8] ∧ encode .dex = [0xCA] ∧ encode .dey = [0x88] ∧
  ∀ (s : State),
    (∃ t, exec .inx s = .next t ∧ PlainOutcome 2 [.x] [.n, .z] s t ∧ t.pc = s.pc ∧
      t.x.toNat = (s.x.toNat + 1) % 256 ∧ NZOf t.x t) ∧
    (∃ t, exec .iny s = .next t ∧ PlainOutcome 2 [.y] [.n, .z] s t ∧ t.pc = s.pc ∧
      t.y.toNat = (s.y.toNat + 1) % 256 ∧ NZOf t.y t) ∧
    (∃ t, exec .dex s = .next t ∧ PlainOutcome 2 [.x] [.n, .z] s t ∧ t.pc = s.pc ∧
      t.x.toNat = (s.x.toNat + 255) % 256 ∧ NZOf t.x t) ∧
    (∃ t, exec .dey s = .next t ∧ PlainOutcome 2 [.y] [.n, .z] s t ∧ t.pc = s.pc ∧
      t.y.toNat = (s.y.toNat + 255) % 256 ∧ NZOf t.y t)

/-! ### Logic, shifts, rotates -/

/-- R270 to R273: BIT takes N and V from the operand, and Z from the conjunction. -/
def Obligations.LogicAndBit : Prop :=
  OpcodesAre .and [(.indx, 0x21), (.zp, 0x25), (.imm, 0x29), (.abs, 0x2D), (.indy, 0x31), (.zpx, 0x35), (.absy,
    0x39), (.absx, 0x3D)] ∧
  OpcodesAre .ora [(.indx, 0x01), (.zp, 0x05), (.imm, 0x09), (.abs, 0x0D), (.indy, 0x11), (.zpx, 0x15), (.absy,
    0x19), (.absx, 0x1D)] ∧
  OpcodesAre .eor [(.indx, 0x41), (.zp, 0x45), (.imm, 0x49), (.abs, 0x4D), (.indy, 0x51), (.zpx, 0x55), (.absy,
    0x59), (.absx, 0x5D)] ∧
  OpcodesAre .bit [(.zp, 0x24), (.abs, 0x2C)] ∧
  ∀ (o : Operand) (s : State) (v : Byte), v = operandValue o s →
    (∃ t, exec (.and o) s = .next t ∧ ReadOutcome (.and o) o [.a] [.n, .z] s t ∧
      t.a = s.a &&& v ∧ NZOf t.a t) ∧
    (∃ t, exec (.ora o) s = .next t ∧ ReadOutcome (.ora o) o [.a] [.n, .z] s t ∧
      t.a = s.a ||| v ∧ NZOf t.a t) ∧
    (∃ t, exec (.eor o) s = .next t ∧ ReadOutcome (.eor o) o [.a] [.n, .z] s t ∧
      t.a = s.a ^^^ v ∧ NZOf t.a t) ∧
    (∃ t, exec (.bit o) s = .next t ∧ ReadOutcome (.bit o) o [] [.z, .n, .v] s t ∧
      (t.flag .z = true ↔ s.a &&& v = 0) ∧ t.flag .n = v.getLsbD 7 ∧ t.flag .v = v.getLsbD 6)

/-- R274 to R277, on the accumulator and on memory: `c` is the old carry, C becomes the ejected bit, and N and Z are
those of the result. A memory form whose address is in the ROM window records the fault and writes no flag. That a
store into the ROM window answers a next state with the fault recorded is the model's reading, log 3, and that it
replaces a fault recorded before is its choice, log 16. -/
def Obligations.ShiftsAndRotates : Prop :=
  OpcodesAre .asl [(.zp, 0x06), (.acc, 0x0A), (.abs, 0x0E), (.zpx, 0x16), (.absx, 0x1E)] ∧
  OpcodesAre .lsr [(.zp, 0x46), (.acc, 0x4A), (.abs, 0x4E), (.zpx, 0x56), (.absx, 0x5E)] ∧
  OpcodesAre .rol [(.zp, 0x26), (.acc, 0x2A), (.abs, 0x2E), (.zpx, 0x36), (.absx, 0x3E)] ∧
  OpcodesAre .ror [(.zp, 0x66), (.acc, 0x6A), (.abs, 0x6E), (.zpx, 0x76), (.absx, 0x7E)] ∧
  ∀ (o : Operand) (s : State) (v : Byte) (c : Bool), v = operandValue o s → c = s.flag .c →
    ((∃ t, exec (.asl .acc) s = .next t ∧ PlainOutcome 2 [.a] [.c, .n, .z] s t ∧ t.pc = s.pc ∧
        t.a = s.a <<< 1 ∧ t.flag .c = s.a.getLsbD 7 ∧ NZOf t.a t) ∧
      (∀ r, (Instr.asl o).wellFormed = true → o ≠ .acc → r = v <<< 1 →
        (inRom (effectiveAddress o s) = false →
          ∃ t, exec (.asl o) s = .next t ∧ StoreOutcome (.asl o) o r (operandState o s) [] [.c, .n, .z] s t ∧
            t.flag .c = v.getLsbD 7 ∧ NZOf r t) ∧
        (inRom (effectiveAddress o s) = true → exec (.asl o) s = .next (romFault o r s)))) ∧
    ((∃ t, exec (.lsr .acc) s = .next t ∧ PlainOutcome 2 [.a] [.c, .n, .z] s t ∧ t.pc = s.pc ∧
        t.a = s.a >>> 1 ∧ t.flag .c = s.a.getLsbD 0 ∧ NZOf t.a t) ∧
      (∀ r, (Instr.lsr o).wellFormed = true → o ≠ .acc → r = v >>> 1 →
        (inRom (effectiveAddress o s) = false →
          ∃ t, exec (.lsr o) s = .next t ∧ StoreOutcome (.lsr o) o r (operandState o s) [] [.c, .n, .z] s t ∧
            t.flag .c = v.getLsbD 0 ∧ NZOf r t) ∧
        (inRom (effectiveAddress o s) = true → exec (.lsr o) s = .next (romFault o r s)))) ∧
    ((∃ t, exec (.rol .acc) s = .next t ∧ PlainOutcome 2 [.a] [.c, .n, .z] s t ∧ t.pc = s.pc ∧
        t.a = (s.a <<< 1) ||| (if c then 1 else 0) ∧ t.flag .c = s.a.getLsbD 7 ∧ NZOf t.a t) ∧
      (∀ r, (Instr.rol o).wellFormed = true → o ≠ .acc → r = (v <<< 1) ||| (if c then 1 else 0) →
        (inRom (effectiveAddress o s) = false →
          ∃ t, exec (.rol o) s = .next t ∧ StoreOutcome (.rol o) o r (operandState o s) [] [.c, .n, .z] s t ∧
            t.flag .c = v.getLsbD 7 ∧ NZOf r t) ∧
        (inRom (effectiveAddress o s) = true → exec (.rol o) s = .next (romFault o r s)))) ∧
    ((∃ t, exec (.ror .acc) s = .next t ∧ PlainOutcome 2 [.a] [.c, .n, .z] s t ∧ t.pc = s.pc ∧
        t.a = (s.a >>> 1) ||| (if c then 0x80 else 0) ∧ t.flag .c = s.a.getLsbD 0 ∧ NZOf t.a t) ∧
      (∀ r, (Instr.ror o).wellFormed = true → o ≠ .acc → r = (v >>> 1) ||| (if c then 0x80 else 0) →
        (inRom (effectiveAddress o s) = false →
          ∃ t, exec (.ror o) s = .next t ∧ StoreOutcome (.ror o) o r (operandState o s) [] [.c, .n, .z] s t ∧
            t.flag .c = v.getLsbD 0 ∧ NZOf r t) ∧
        (inRom (effectiveAddress o s) = true → exec (.ror o) s = .next (romFault o r s))))

/-! ### Control -/

/-- R290, R291, R141: JMP takes its operand, or the word read through it: low byte first, the high byte from the
start of the same page when the pointer ends in 0xFF. -/
def Obligations.Jumps : Prop :=
  (∀ w, encode (.jmpAbs w) = [0x4C, lo8 w, hi8 w]) ∧ (∀ w, encode (.jmpInd w) = [0x6C, lo8 w, hi8 w]) ∧
  ∀ (s : State) (w : Word),
    (∃ t, exec (.jmpAbs w) s = .next t ∧ PlainOutcome 3 [] [] s t ∧ t.pc = w) ∧
    (∀ lo hi s1 s2, busRead w s = (lo, s1) →
      busRead (if w.toNat % 256 = 255 then w - 255 else w + 1) s1 = (hi, s2) →
      ∃ t, exec (.jmpInd w) s = .next t ∧ Frame [] [] s t ∧ t.unused = s.unused ∧ SameMemory s t ∧
        Charged 5 s2 s t ∧ t.pc.toNat = hi.toNat * 256 + lo.toNat)

/-- R292, R293: JSR pushes the address of its own last byte, high byte first, and takes its operand; RTS pops the
low byte and then the high byte, and PC is one more than the word popped. -/
def Obligations.Subroutines : Prop :=
  (∀ w, encode (.jsr w) = [0x20, lo8 w, hi8 w]) ∧ encode .rts = [0x60] ∧
  ∀ (s : State),
    (∀ w, ∃ t mid, exec (.jsr w) s = .next t ∧ t.pc = w ∧ t.sp = s.sp - 2 ∧
      Frame [.sp] [] s t ∧ t.unused = s.unused ∧ Charged 6 s s t ∧
      StoredAt (0x0100 + s.sp.setWidth 16) (hi8 (s.pc - 1)) s mid ∧
      StoredAt (0x0100 + (s.sp - 1).setWidth 16) (lo8 (s.pc - 1)) mid t) ∧
    (∀ lo hi, lo = peek s (0x0100 + (s.sp + 1).setWidth 16) → hi = peek s (0x0100 + (s.sp + 2).setWidth 16) →
      ∃ t, exec .rts s = .next t ∧ PlainOutcome 6 [.sp] [] s t ∧ t.sp = s.sp + 2 ∧
        t.pc.toNat = (hi.toNat * 256 + lo.toNat + 1) % 65536)

/-- R293's corner case, R306: after a JSR an RTS, wherever it stands, returns to the instruction after the JSR, with
SP, A, X, Y and P as they were before it. -/
def Obligations.JsrThenRts : Prop :=
  ∀ (s : State) (w at_ : Word), ∃ t u, exec (.jsr w) s = .next t ∧ exec .rts (t.setPc at_) = .next u ∧
    u.pc = s.pc ∧ Frame [] [] s u ∧ u.unused = s.unused ∧ u.cycles = s.cycles + 12

/-- R294 and R296 to R303: the eight branches, each on its flag. -/
def Obligations.Branches : Prop :=
  (∀ b, encode (.bpl b) = [0x10, b] ∧ encode (.bmi b) = [0x30, b] ∧ encode (.bvc b) = [0x50, b] ∧
    encode (.bvs b) = [0x70, b] ∧ encode (.bcc b) = [0x90, b] ∧ encode (.bcs b) = [0xB0, b] ∧
    encode (.bne b) = [0xD0, b] ∧ encode (.beq b) = [0xF0, b]) ∧
  ∀ (offset : Byte) (s : State),
    BranchOutcome (.bpl offset) offset (!s.flag .n) s ∧
    BranchOutcome (.bmi offset) offset (s.flag .n) s ∧
    BranchOutcome (.bvc offset) offset (!s.flag .v) s ∧
    BranchOutcome (.bvs offset) offset (s.flag .v) s ∧
    BranchOutcome (.bcc offset) offset (!s.flag .c) s ∧
    BranchOutcome (.bcs offset) offset (s.flag .c) s ∧
    BranchOutcome (.bne offset) offset (!s.flag .z) s ∧
    BranchOutcome (.beq offset) offset (s.flag .z) s

/-- R295: RTI pops P, with the raw import, and then PC, with no 1 added. -/
def Obligations.RtiPopsPThenPc : Prop :=
  encode .rti = [0x40] ∧
  ∀ (s : State) (v lo hi : Byte), v = peek s (0x0100 + (s.sp + 1).setWidth 16) →
    lo = peek s (0x0100 + (s.sp + 2).setWidth 16) → hi = peek s (0x0100 + (s.sp + 3).setWidth 16) →
    ∃ t, exec .rti s = .next t ∧ Frame [.sp] [.n, .v, .b, .d, .i, .z, .c] s t ∧ SameMemory s t ∧ Charged 6 s s t ∧
      t.sp = s.sp + 3 ∧ t.p = (v &&& 0xCF) ||| 0x20 ∧ t.pc.toNat = hi.toNat * 256 + lo.toNat

/-- R304: BRK sets B and the stop signal, is charged 7 cycles, and pushes nothing; I, SP and PC are as before. -/
def Obligations.BrkStopsAndPushesNothing : Prop :=
  encode .brk = [0x00] ∧
  ∀ (s : State), ∃ t, exec .brk s = .next t ∧ t.stopped = true ∧ t.flag .b = true ∧
    (∀ f, f ≠ Flag.b → t.flag f = s.flag f) ∧ t.unused = s.unused ∧ (∀ r, t.reg r = s.reg r) ∧ t.pc = s.pc ∧
    SameMemory s t ∧ Charged 7 s s t ∧ t.pending = s.pending ∧ t.fault = s.fault ∧ t.bank = s.bank ∧
    t.chr = s.chr ∧ t.mirroring = s.mirroring

/-- R120, R304, R430: a step returns false exactly when the opcode it read is BRK's. The model holds what the step
returned in its field `stopped` (log 4). -/
def Obligations.OnlyBrkStops : Prop :=
  ∀ (s t : State), step s = .next t →
    (t.stopped = true ↔ (busRead s.pc { s with stopped := false }).1 = 0x00)

/-- R305, R331 to R333: the NOPs; the memory forms make their data read and discard the byte. -/
def Obligations.Nops : Prop :=
  encode .nop = [0xEA] ∧
  (∀ op, ((Instr.nopImp op).wellFormed = true ↔ op ∈ ([0x1A, 0x3A, 0x5A, 0x7A, 0xDA, 0xFA] : List Byte)) ∧
    ((Instr.nopImp op).wellFormed = true → encode (.nopImp op) = [op])) ∧
  (∀ op b, ((Instr.nopImm op b).wellFormed = true ↔ op ∈ ([0x80, 0x82, 0x89, 0xC2, 0xE2] : List Byte)) ∧
    ((Instr.nopImm op b).wellFormed = true → encode (.nopImm op b) = [op, b])) ∧
  (∀ op o, ((Instr.nopMem op o).wellFormed = true ↔ (o.mode, op) ∈ ([(.zp, 0x04), (.abs, 0x0C), (.zpx, 0x14),
    (.absx, 0x1C), (.zpx, 0x34), (.absx, 0x3C), (.zp, 0x44), (.zpx, 0x54), (.absx, 0x5C), (.zp, 0x64), (.zpx,
    0x74), (.absx, 0x7C), (.zpx, 0xD4), (.absx, 0xDC), (.zpx, 0xF4), (.absx, 0xFC)] : List (Mode × Byte))) ∧
    ((Instr.nopMem op o).wellFormed = true → encode (.nopMem op o) = op :: o.bytes)) ∧
  ∀ (s : State),
    (∃ t, exec .nop s = .next t ∧ PlainOutcome 2 [] [] s t ∧ t.pc = s.pc) ∧
    (∀ op, (Instr.nopImp op).wellFormed = true →
      ∃ t, exec (.nopImp op) s = .next t ∧ PlainOutcome 2 [] [] s t ∧ t.pc = s.pc) ∧
    (∀ op b, (Instr.nopImm op b).wellFormed = true →
      ∃ t, exec (.nopImm op b) s = .next t ∧ PlainOutcome 2 [] [] s t ∧ t.pc = s.pc) ∧
    (∀ op o, ∃ t, exec (.nopMem op o) s = .next t ∧ ReadOutcome (.nopMem op o) o [] [] s t)

/-- R320 to R326. -/
def Obligations.FlagInstructions : Prop :=
  ∀ (s : State),
    ∀ p ∈ ([(.clc, 0x18, .c, false), (.sec, 0x38, .c, true), (.cli, 0x58, .i, false), (.sei, 0x78, .i, true),
        (.clv, 0xB8, .v, false), (.cld, 0xD8, .d, false), (.sed, 0xF8, .d, true)] : List (Instr × Byte × Flag × Bool)),
      encode p.1 = [p.2.1] ∧
      ∃ t, exec p.1 s = .next t ∧ PlainOutcome 2 [] [p.2.2.1] s t ∧ t.pc = s.pc ∧ t.flag p.2.2.1 = p.2.2.2

/-! ### Undocumented opcodes -/

/-- R334 to R336: SLO, RLA and SRE store the shifted byte `r` and combine it into A. That a store into the ROM window
answers a next state with the fault recorded is the model's reading, log 3, and that it replaces a fault recorded
before is its choice, log 16. -/
def Obligations.ShiftAndCombine : Prop :=
  OpcodesAre .slo [(.indx, 0x03), (.zp, 0x07), (.abs, 0x0F), (.indy, 0x13), (.zpx, 0x17), (.absy, 0x1B), (.absx,
    0x1F)] ∧
  OpcodesAre .rla [(.indx, 0x23), (.zp, 0x27), (.abs, 0x2F), (.indy, 0x33), (.zpx, 0x37), (.absy, 0x3B), (.absx,
    0x3F)] ∧
  OpcodesAre .sre [(.indx, 0x43), (.zp, 0x47), (.abs, 0x4F), (.indy, 0x53), (.zpx, 0x57), (.absy, 0x5B), (.absx,
    0x5F)] ∧
  ∀ (o : Operand) (s : State) (v : Byte) (c : Bool), v = operandValue o s → c = s.flag .c →
    (∀ r, (Instr.slo o).wellFormed = true → r = v <<< 1 →
      (inRom (effectiveAddress o s) = false →
        ∃ t, exec (.slo o) s = .next t ∧ StoreOutcome (.slo o) o r (operandState o s) [.a] [.c, .n, .z] s t ∧
          t.flag .c = v.getLsbD 7 ∧ t.a = s.a ||| r ∧ NZOf t.a t) ∧
      (inRom (effectiveAddress o s) = true → exec (.slo o) s = .next (romFault o r s))) ∧
    (∀ r, (Instr.rla o).wellFormed = true → r = (v <<< 1) ||| (if c then 1 else 0) →
      (inRom (effectiveAddress o s) = false →
        ∃ t, exec (.rla o) s = .next t ∧ StoreOutcome (.rla o) o r (operandState o s) [.a] [.c, .n, .z] s t ∧
          t.flag .c = v.getLsbD 7 ∧ t.a = s.a &&& r ∧ NZOf t.a t) ∧
      (inRom (effectiveAddress o s) = true → exec (.rla o) s = .next (romFault o r s))) ∧
    (∀ r, (Instr.sre o).wellFormed = true → r = v >>> 1 →
      (inRom (effectiveAddress o s) = false →
        ∃ t, exec (.sre o) s = .next t ∧ StoreOutcome (.sre o) o r (operandState o s) [.a] [.c, .n, .z] s t ∧
          t.flag .c = v.getLsbD 0 ∧ t.a = s.a ^^^ r ∧ NZOf t.a t) ∧
      (inRom (effectiveAddress o s) = true → exec (.sre o) s = .next (romFault o r s)))

/-- R337: RRA stores the rotated byte `r` and adds it to A with the carry the rotate ejected. That a store into the
ROM window answers a next state with the fault recorded is the model's reading, log 3, and that it replaces a fault
recorded before is its choice, log 16. -/
def Obligations.RotateAndAdd : Prop :=
  OpcodesAre .rra [(.indx, 0x63), (.zp, 0x67), (.abs, 0x6F), (.indy, 0x73), (.zpx, 0x77), (.absy, 0x7B), (.absx,
    0x7F)] ∧
  ∀ (o : Operand) (s : State) (v r : Byte) (sum : Nat), (Instr.rra o).wellFormed = true → v = operandValue o s →
    r = (v >>> 1) ||| (if s.flag .c then 0x80 else 0) → sum = s.a.toNat + r.toNat + v.toNat % 2 →
    (inRom (effectiveAddress o s) = false →
      ∃ t, exec (.rra o) s = .next t ∧ StoreOutcome (.rra o) o r (operandState o s) [.a] [.c, .v, .n, .z] s t ∧
        t.a.toNat = sum % 256 ∧ (t.flag .c = true ↔ sum > 0xFF) ∧
        t.flag .v = ((t.a ^^^ s.a) &&& (t.a ^^^ r)).getLsbD 7 ∧ NZOf t.a t) ∧
    (inRom (effectiveAddress o s) = true → exec (.rra o) s = .next (romFault o r s))

/-- R340, R341: DCP stores the decremented byte and compares A with it; ISB stores the incremented byte and subtracts
it from A with borrow. That a store into the ROM window answers a next state with the fault recorded is the model's
reading, log 3, and that it replaces a fault recorded before is its choice, log 16. -/
def Obligations.StepAndCombine : Prop :=
  OpcodesAre .dcp [(.indx, 0xC3), (.zp, 0xC7), (.abs, 0xCF), (.indy, 0xD3), (.zpx, 0xD7), (.absy, 0xDB), (.absx,
    0xDF)] ∧
  OpcodesAre .isb [(.indx, 0xE3), (.zp, 0xE7), (.abs, 0xEF), (.indy, 0xF3), (.zpx, 0xF7), (.absy, 0xFB), (.absx,
    0xFF)] ∧
  ∀ (o : Operand) (s : State) (v : Byte) (c : Nat), v = operandValue o s → c = (if s.flag .c then 1 else 0) →
    (∀ r, (Instr.dcp o).wellFormed = true → r = v - 1 →
      (inRom (effectiveAddress o s) = false →
        ∃ t, exec (.dcp o) s = .next t ∧ StoreOutcome (.dcp o) o r (operandState o s) [] [.c, .n, .z] s t ∧
          (t.flag .c = true ↔ r.toNat ≤ s.a.toNat) ∧ (t.flag .z = true ↔ s.a = r) ∧
          t.flag .n = (s.a - r).getLsbD 7) ∧
      (inRom (effectiveAddress o s) = true → exec (.dcp o) s = .next (romFault o r s))) ∧
    (∀ r, (Instr.isb o).wellFormed = true → r = v + 1 →
      (inRom (effectiveAddress o s) = false →
        ∃ t, exec (.isb o) s = .next t ∧ StoreOutcome (.isb o) o r (operandState o s) [.a] [.c, .v, .n, .z] s t ∧
          t.a = s.a - r - BitVec.ofNat 8 (1 - c) ∧ (t.flag .c = true ↔ r.toNat + (1 - c) ≤ s.a.toNat) ∧
          t.flag .v = ((t.a ^^^ s.a) &&& (t.a ^^^ ~~~r)).getLsbD 7 ∧ NZOf t.a t) ∧
      (inRom (effectiveAddress o s) = true → exec (.isb o) s = .next (romFault o r s)))

/-- R339, R347: LAX loads A and X, LAS loads A, X and SP with the byte AND SP. -/
def Obligations.CombinedLoads : Prop :=
  OpcodesAre .lax [(.indx, 0xA3), (.zp, 0xA7), (.abs, 0xAF), (.indy, 0xB3), (.zpy, 0xB7), (.absy, 0xBF)] ∧
  (∀ w, encode (.las w) = [0xBB, lo8 w, hi8 w]) ∧
  ∀ (s : State),
    (∀ o, ∃ t, exec (.lax o) s = .next t ∧ ReadOutcome (.lax o) o [.a, .x] [.n, .z] s t ∧
      t.a = operandValue o s ∧ t.x = operandValue o s ∧ NZOf (operandValue o s) t) ∧
    (∀ w v, v = operandValue (.absy w) s &&& s.sp →
      ∃ t, exec (.las w) s = .next t ∧ ReadOutcome (.las w) (.absy w) [.a, .x, .sp] [.n, .z] s t ∧
        t.a = v ∧ t.x = v ∧ t.sp = v ∧ NZOf v t)

/-- R342 to R345: the immediate combined opcodes. -/
def Obligations.ImmediateCombined : Prop :=
  (∀ op b, ((Instr.anc op b).wellFormed = true ↔ op ∈ ([0x0B, 0x2B] : List Byte)) ∧
    ((Instr.anc op b).wellFormed = true → encode (.anc op b) = [op, b])) ∧
  (∀ b, encode (.alr b) = [0x4B, b] ∧ encode (.arr b) = [0x6B, b] ∧ encode (.axs b) = [0xCB, b]) ∧
  ∀ (s : State) (b u r : Byte), u = s.a &&& b → r = (u >>> 1) ||| (if s.flag .c then 0x80 else 0) →
    (∀ op, (Instr.anc op b).wellFormed = true →
      ∃ t, exec (.anc op b) s = .next t ∧ PlainOutcome 2 [.a] [.n, .z, .c] s t ∧ t.pc = s.pc ∧
        t.a = u ∧ NZOf u t ∧ t.flag .c = u.getLsbD 7) ∧
    (∃ t, exec (.alr b) s = .next t ∧ PlainOutcome 2 [.a] [.n, .z, .c] s t ∧ t.pc = s.pc ∧
      t.a = u >>> 1 ∧ NZOf t.a t ∧ t.flag .c = u.getLsbD 0) ∧
    (∃ t, exec (.arr b) s = .next t ∧ PlainOutcome 2 [.a] [.n, .z, .c, .v] s t ∧ t.pc = s.pc ∧
      t.a = r ∧ NZOf r t ∧ t.flag .c = r.getLsbD 6 ∧ t.flag .v = (r.getLsbD 6 ^^ r.getLsbD 5)) ∧
    (∃ t, exec (.axs b) s = .next t ∧ PlainOutcome 2 [.x] [.n, .z, .c] s t ∧ t.pc = s.pc ∧
      t.x = (s.a &&& s.x) - b ∧ NZOf t.x t ∧ (t.flag .c = true ↔ b.toNat ≤ (s.a &&& s.x).toNat))

/-- R348 to R354: each opcode behind the unimplemented marker records the fault with its opcode byte and the address
it was fetched from (PC stands one past it, R401), and changes nothing else. That this is a next state with the fault
recorded, and `step` then answers the fault, is log 3. That the record replaces one made before is log 16. -/
def Obligations.MarkedOpcodes : Prop :=
  (∀ b, encode (.xaa b) = [0x8B, b] ∧ encode (.lxa b) = [0xAB, b]) ∧ OpcodesAre .ahx [(.indy, 0x93), (.absy, 0x9F)] ∧
  (∀ w, encode (.tas w) = [0x9B, lo8 w, hi8 w] ∧ encode (.shy w) = [0x9C, lo8 w, hi8 w] ∧
    encode (.shx w) = [0x9E, lo8 w, hi8 w]) ∧
  (∀ op, ((Instr.jam op).wellFormed = true ↔ op ∈ ([0x02, 0x12, 0x22, 0x32, 0x42, 0x52, 0x62, 0x72, 0x92, 0xB2,
    0xD2, 0xF2] : List Byte)) ∧ ((Instr.jam op).wellFormed = true → encode (.jam op) = [op])) ∧
  ∀ (s : State) (b : Byte) (w : Word),
    exec (.xaa b) s = .next { s with fault := some (.unimplementedOpcode 0x8B (s.pc - 1)) } ∧
    exec (.lxa b) s = .next { s with fault := some (.unimplementedOpcode 0xAB (s.pc - 1)) } ∧
    exec (.ahx (.indy b)) s = .next { s with fault := some (.unimplementedOpcode 0x93 (s.pc - 1)) } ∧
    exec (.ahx (.absy w)) s = .next { s with fault := some (.unimplementedOpcode 0x9F (s.pc - 1)) } ∧
    exec (.tas w) s = .next { s with fault := some (.unimplementedOpcode 0x9B (s.pc - 1)) } ∧
    exec (.shy w) s = .next { s with fault := some (.unimplementedOpcode 0x9C (s.pc - 1)) } ∧
    exec (.shx w) s = .next { s with fault := some (.unimplementedOpcode 0x9E (s.pc - 1)) } ∧
    exec (.jam b) s = .next { s with fault := some (.unimplementedOpcode b (s.pc - 1)) }

/-! ### Rules of the whole machine -/

/-- The invariant is kept by every step: RAM and program ROM stay in canonical form and bit U of P stays 1 (R28). -/
def Obligations.StepKeepsInv : Prop := ∀ (s t : State), Inv s → step s = .next t → Inv t

/-- The invariant holds after reset. -/
def Obligations.ResetInv : Prop := Inv State.reset

/-- R114, R472, R403: a step's accesses come first, then its one charge, whose ticks are three for every cycle; a step
that records a fault charges and ticks nothing. The history before the step is kept. That a step that records a fault
is a next state is the model's reading, log 3. -/
def Obligations.TicksFollowAccesses : Prop :=
  ∀ (s t : State), step s = .next t →
    ∃ (es : List Event) (n : Nat), noTick es = true ∧ t.cycles = s.cycles + n ∧
      ((t.fault = none ∧ t.events = .videoTick (3 * n) :: es ++ s.events) ∨
       (t.fault ≠ none ∧ n = 0 ∧ t.events = es ++ s.events))

/-- R39, R89, R37: no step changes the program ROM, the rest of the cartridge or the pending marker. -/
def Obligations.StepKeepsCartridge : Prop :=
  ∀ (s t : State), step s = .next t →
    t.prg = s.prg ∧ t.bank = s.bank ∧ t.chr = s.chr ∧ t.mirroring = s.mirroring ∧ t.pending = s.pending

/-- R403: a step that records a fault leaves A, X, Y, SP, P, `cycles` and memory as they were; PC is one past the
opcode for an unimplemented opcode, and past the whole instruction for a write into the ROM window. -/
def Obligations.FaultIsPrecise : Prop :=
  ∀ (s t : State) (f : Fault), step s = .next t → t.fault = some f →
    t.a = s.a ∧ t.x = s.x ∧ t.y = s.y ∧ t.sp = s.sp ∧ t.p = s.p ∧ t.cycles = s.cycles ∧ t.ram = s.ram ∧
    t.prg = s.prg ∧
    ((∃ op, f = .unimplementedOpcode op s.pc ∧ (busRead s.pc { s with stopped := false }).1 = op ∧
        (descriptor op).implemented = false ∧ t.pc = s.pc + 1) ∨
     (∃ a v, f = .illegalRomWrite a v ∧ inRom a = true ∧
        t.pc = s.pc + BitVec.ofNat 16 (descriptor (busRead s.pc { s with stopped := false }).1).length))

/-- R35: an instruction outside the flag's row of the table leaves the flag as it was. -/
def Obligations.FlagWriters : Prop :=
  ∀ (i : Instr) (s t : State) (f : Flag), exec i s = .next t → i.mnemonic ∉ flagWriters f → t.flag f = s.flag f

/-- R20 to R24: an instruction outside the register's list leaves A, X, Y, SP as they were, and one that is no
control transfer leaves PC at the next instruction. -/
def Obligations.RegisterWriters : Prop :=
  ∀ (i : Instr) (s t : State), i.wellFormed = true → exec i s = .next t →
    (∀ r, i.mnemonic ∉ regWriters r → t.reg r = s.reg r) ∧ (i.mnemonic ∉ pcWriters → t.pc = s.pc)

/-! ### The bus -/

/-- R80, R82 to R84, R86, R88, R90: where a read of each address goes, and what it does. The answer of an external
agent is a free value (log 1). That it is numbered by the count of requests is the model's choice, log 1. -/
def Obligations.BusReadMap : Prop :=
  ∀ (a : Word) (s : State),
    (a.toNat < 0x2000 → busRead a s = (s.ram.read (a.toNat % 0x0800), s)) ∧
    (0x2000 ≤ a.toNat → a.toNat < 0x4000 → a.toNat % 8 ∈ [2, 4, 7] →
      busRead a s = (Config.videoAnswer s.draws,
        { s with draws := s.draws + 1, events := .videoRead (BitVec.ofNat 16 (0x2000 + a.toNat % 8)) :: s.events })) ∧
    (0x2000 ≤ a.toNat → a.toNat < 0x4000 → a.toNat % 8 ∉ [2, 4, 7] → busRead a s = (0x00, s)) ∧
    (a.toNat = 0x4016 → busRead a s = (Config.controllerAnswer s.draws,
        { s with draws := s.draws + 1, events := .ctrlRead :: s.events })) ∧
    (0x4000 ≤ a.toNat → a.toNat < 0x8000 → a.toNat ≠ 0x4016 → busRead a s = (0x00, s)) ∧
    (0x8000 ≤ a.toNat → s.bank = .full → busRead a s = (s.prg.read (a.toNat - 0x8000), s)) ∧
    (0x8000 ≤ a.toNat → s.bank = .half → busRead a s = (s.prg.read ((a.toNat - 0x8000) % 0x4000), s))

/-- R81, R83, R85, R89, R90: where a write to each address goes. That a write into the ROM window replaces a fault
recorded before is the model's choice, log 16. -/
def Obligations.BusWriteMap : Prop :=
  ∀ (a : Word) (v : Byte) (s : State),
    (a.toNat < 0x2000 → busWrite a v s = { s with ram := s.ram.write (a.toNat % 0x0800) v }) ∧
    (0x2000 ≤ a.toNat → a.toNat < 0x4000 → busWrite a v s =
      { s with events := .videoWrite (BitVec.ofNat 16 (0x2000 + a.toNat % 8)) v :: s.events }) ∧
    (a.toNat = 0x4014 → busWrite a v s = oamDma v s) ∧
    (a.toNat = 0x4016 → busWrite a v s = { s with events := .ctrlWrite v :: s.events }) ∧
    (0x4000 ≤ a.toNat → a.toNat < 0x8000 → a.toNat ≠ 0x4014 → a.toNat ≠ 0x4016 → busWrite a v s = s) ∧
    (0x8000 ≤ a.toNat → busWrite a v s = { s with fault := some (.illegalRomWrite a v) })

/-- R82: a byte written to any address of the RAM window is read back at every address of the same cell, and every
other cell reads as before. -/
def Obligations.RamMirroring : Prop :=
  ∀ (a b : Word) (v : Byte) (s : State), a.toNat < 0x2000 → b.toNat < 0x2000 →
    (a.toNat % 0x0800 = b.toNat % 0x0800 → (busRead b (busWrite a v s)).1 = v) ∧
    (a.toNat % 0x0800 ≠ b.toNat % 0x0800 → (busRead b (busWrite a v s)).1 = (busRead b s).1)

/-- R87: the sprite DMA forwards 256 bytes, each read with full decode, in increasing order; from a page at which no
external agent answers they are the bytes that stand there. Nothing but the history and the count of answers changes,
and no cycle is charged. -/
def Obligations.SpriteDma : Prop :=
  ∀ (v : Byte) (s : State),
    (∃ d es, oamDma v s = { s with draws := d, events := es ++ s.events } ∧
      (es.filter fun e => match e with
        | .videoOamDmaWrite _ => true
        | _ => false).length = 256) ∧
    ((∀ k, k < 256 → answered (BitVec.ofNat 16 (v.toNat * 256 + k)) = false) →
      oamDma v s = { s with events :=
        ((List.range 256).map fun k =>
          Event.videoOamDmaWrite (peek s (BitVec.ofNat 16 (v.toNat * 256 + k)))).reverse ++ s.events })

/-! ### Construction, reset, loading, interrupts, the run loop -/

/-- R451, R452: what reset does to every piece of state, for either value of the parameter P_RESET (U9); 0x34 is its
default. -/
def Obligations.Reset : Prop :=
  Config.PReset.bSet.value = 0x34 ∧ Config.PReset.bClear.value = 0x24 ∧
  ∀ (r : Config.PReset) (s : State),
    resetCpu r s =
      { s with
        a := 0x00, x := 0x00, y := 0x00, sp := 0xFD, p := r.value, pending := none
        cycles := s.cycles + 7, events := .videoTick 21 :: s.events
        pc := word16 (peek s 0xFFFD) (peek s 0xFFFC) }

/-- R450, R455: construction from a cartridge: refused for any program ROM of neither bank length; else every piece
of state at its construction value, for either value of the parameter P_RESET (U9); 0x34 is its default. -/
def Obligations.PowerOn : Prop :=
  Config.PReset.bSet.value = 0x34 ∧ Config.PReset.bClear.value = 0x24 ∧
  ∀ (r : Config.PReset) (cart : Cartridge) (ramInit : List Byte),
    (cart.prg.length ≠ 0x4000 → cart.prg.length ≠ 0x8000 →
      powerOn r cart ramInit = .refused (.badProgramLength cart.prg.length)) ∧
    (∀ k, cart.prg.length = k.size →
      ∃ s, powerOn r cart ramInit = .next s ∧ s.a = 0x00 ∧ s.x = 0x00 ∧ s.y = 0x00 ∧ s.sp = 0xFD ∧
        s.p = r.value ∧ s.pc = 0x0000 ∧ s.cycles = 0 ∧ s.pending = none ∧ s.fault = none ∧ s.events = [] ∧
        s.bank = k ∧ s.chr = cart.chr ∧ s.mirroring = cart.mirroring ∧
        (∀ j, j < k.size → s.prg.read j = cart.prg.getD j 0x00) ∧
        (∀ j, j < 0x0800 → s.ram.read j = ramInit.getD j 0x00) ∧ Inv s)

/-- The model's State.reset is the reset of a machine constructed with P_RESET at its default, zero RAM
and a full bank of zero bytes, of which the zeros are the model's choices (logs 5 and 6). -/
def Obligations.ResetStateIsReset : Prop :=
  ∃ s, powerOn .bSet ⟨List.replicate 0x8000 0x00, [], 0⟩ [] = .next s ∧ resetCpu .bSet s = State.reset

/-- R457: `load` writes the bytes from 0x8000 on and then 0x8000 into the reset vector, changes nothing but program
ROM, and refuses more bytes than the program ROM holds. -/
def Obligations.Load : Prop :=
  ∀ (bytes : List Byte) (s : State),
    (s.bank.size < bytes.length → loadProgram bytes s = .refused (.programTooLong bytes.length)) ∧
    (bytes.length ≤ s.bank.size →
      ∃ m, loadProgram bytes s = .next { s with prg := m } ∧
        (∀ j, j < s.bank.size → m.read j =
          if j = s.bank.size - 4 then 0x00 else if j = s.bank.size - 3 then 0x80
          else if h : j < bytes.length then bytes[j] else s.prg.read j) ∧
        (s.prg.wf s.bank.size = true → m.wf s.bank.size = true) ∧
        (∀ r, (resetCpu r { s with prg := m }).pc = 0x8000))

/-- R412, R413: interrupt entry pushes PC, high byte first, and P with B and U set, sets I, charges 2 cycles, loads
PC from the vector and sets the marker; nothing else changes. -/
def Obligations.InterruptEntry : Prop :=
  ∀ (k : IrqKind) (s : State),
    ∃ m1 m2, StoredAt (0x0100 + s.sp.setWidth 16) (hi8 s.pc) s m1 ∧
      StoredAt (0x0100 + (s.sp - 1).setWidth 16) (lo8 s.pc) m1 m2 ∧
      StoredAt (0x0100 + (s.sp - 2).setWidth 16) (s.p ||| 0x30) m2 (deliver k s) ∧
      (deliver k s).sp = s.sp - 3 ∧ (∀ r, r ≠ Reg.sp → (deliver k s).reg r = s.reg r) ∧
      (deliver k s).flag .i = true ∧ (∀ f, f ≠ Flag.i → (deliver k s).flag f = s.flag f) ∧
      (deliver k s).unused = s.unused ∧ Charged 2 s s (deliver k s) ∧
      (deliver k s).pc = (match k with
        | .nmi => word16 (peek s 0xFFFB) (peek s 0xFFFA)
        | .irq => word16 (peek s 0xFFFF) (peek s 0xFFFE)) ∧
      (deliver k s).pending = some k ∧ (deliver k s).fault = s.fault ∧ (deliver k s).stopped = s.stopped ∧
      (deliver k s).prg = s.prg ∧ (deliver k s).bank = s.bank ∧ (deliver k s).chr = s.chr ∧
      (deliver k s).mirroring = s.mirroring

/-- R417: an RTI right after an interrupt entry, wherever it stands, resumes the interrupted program: PC, SP, A, X, Y
and every flag but B as they were (B is cleared, R34); the pending marker stays set. -/
def Obligations.EntryThenRti : Prop :=
  ∀ (k : IrqKind) (s : State) (at_ : Word), s.unused = true →
    ∃ t, exec .rti ((deliver k s).setPc at_) = .next t ∧ t.pc = s.pc ∧ (∀ r, t.reg r = s.reg r) ∧
      (∀ f, f ≠ Flag.b → t.flag f = s.flag f) ∧ t.flag .b = false ∧ t.unused = true ∧ t.pending = some k

/-- R420, R421, R431: one NMI poll per iteration; if it answers true NMI is delivered and nothing else is asked;
else IRQ is delivered if it is requested and I is clear. The answers are free values (log 1). -/
def Obligations.InterruptChoice : Prop :=
  ∀ (s polled asked : State),
    polled = { s with draws := s.draws + 1, events := .videoNmiPoll :: s.events } →
    asked = { s with draws := s.draws + 2, events := .videoNmiPoll :: s.events } →
    (Config.nmiAnswer s.draws = true → pollAndDeliver s = deliver .nmi polled) ∧
    (Config.nmiAnswer s.draws = false → Config.irqAnswer (s.draws + 1) = true → s.flag .i = false →
      pollAndDeliver s = deliver .irq asked) ∧
    (Config.nmiAnswer s.draws = false → Config.irqAnswer (s.draws + 1) = false ∨ s.flag .i = true →
      pollAndDeliver s = asked)

/-- R430, R432, R433: one iteration of the run loop: it ends at a recorded fault, at the callback's request before
the step, at a fault the step records, or at BRK; else the run goes on. -/
def Obligations.RunLoopIteration : Prop :=
  ∀ (f : State → State × Bool) (s r : State) (stop : Bool),
    (∀ e, s.fault = some e → iteration f s = .ended (.faulted e) s) ∧
    (s.fault = none → f (pollAndDeliver s) = (r, stop) →
      (stop = true → iteration f s = .ended .hostStopped r) ∧
      (stop = false → ∀ e, r.fault = some e → iteration f s = .ended (.faulted e) r) ∧
      (stop = false → ∀ t, step r = .next t →
        (∀ e, t.fault = some e → iteration f s = .ended (.faulted e) t) ∧
        (t.fault = none → t.stopped = true → iteration f s = .ended .stopped t) ∧
        (t.fault = none → t.stopped = false → iteration f s = .running t)))

/-- R38, R403, R452: a CPU whose fault record is set takes no further step (that the outcome of `step` is then that
fault is log 3). And a recorded fault is cleared by no reset, load, acknowledgement, memory operation or cartridge
replacement: after any host operation but the construction of a new CPU a fault is still recorded, and so it is after
any number of iterations of the run loop. -/
def Obligations.FaultIsNeverCleared : Prop :=
  (∀ (s : State) (f : Fault), s.fault = some f → step s = .fault f) ∧
  (∀ (r : Config.PReset) (op : HostOp) (s t : State), s.fault ≠ none → op ≠ .newCpu → op.Returns r s (.next t) →
    t.fault ≠ none) ∧
  (∀ (f : State → State × Bool) (n : Nat) (s : State), s.fault ≠ none → (runFor f n s).state.fault ≠ none)

/-- R416, R458, R26, R433, R434: `acknowledge` clears the pending marker and nothing else; replacing the cartridge
replaces PRG, CHR and MIRRORING, keeps RAM, and resets, or is refused for a bad length; the host's write of P keeps U
at 1 (log 14); `load_and_run` returns exactly when its program fits and its run, which has no bound, has ended, as it
can only by BRK or a fault. All for either value of P_RESET (U9). -/
def Obligations.HostOperations : Prop :=
  ∀ (r : Config.PReset) (s : State) (cart : Cartridge) (v : Byte),
    acknowledge s = { s with pending := none } ∧
    (cart.prg.length ≠ 0x4000 → cart.prg.length ≠ 0x8000 →
      replaceCartridge r cart s = .refused (.badProgramLength cart.prg.length)) ∧
    (∀ k, cart.prg.length = k.size →
      ∃ m, (∀ j, j < k.size → m.read j = cart.prg.getD j 0x00) ∧ m.wf k.size = true ∧
        replaceCartridge r cart s = .next (resetCpu r
          { s with prg := m, bank := k, chr := cart.chr, mirroring := cart.mirroring })) ∧
    (hostWriteP v s).unused = true ∧ (∀ f, (hostWriteP v s).flag f = v.getLsbD f.bit) ∧
    (∀ bytes t, (HostOp.loadAndRun bytes).Returns r s (.next t) ↔
      ∃ u e, loadProgram bytes s = .next u ∧ RunEnds quiet (resetCpu r u) e t ∧
        ((e = .stopped ∧ t.stopped = true ∧ t.fault = none) ∨ ∃ f, e = .faulted f ∧ t.fault = some f)) ∧
    (∀ bytes, s.bank.size < bytes.length →
      (HostOp.loadAndRun bytes).Returns r s (.refused (.programTooLong bytes.length)))
end

