-- ==== Sys2Proof/Laws/State.lean ====
section
/-! SUPPORT. One lemma per field per update of State: what the update does to that field. -/

namespace Sys2Proof.Machine

/-! `State.setA` -/

@[simp] theorem State.setA_a (v : Byte) (s : State) : (s.setA v).a = v := rfl
@[simp] theorem State.setA_x (v : Byte) (s : State) : (s.setA v).x = s.x := rfl
@[simp] theorem State.setA_y (v : Byte) (s : State) : (s.setA v).y = s.y := rfl
@[simp] theorem State.setA_sp (v : Byte) (s : State) : (s.setA v).sp = s.sp := rfl
@[simp] theorem State.setA_p (v : Byte) (s : State) : (s.setA v).p = s.p := rfl
@[simp] theorem State.setA_pc (v : Byte) (s : State) : (s.setA v).pc = s.pc := rfl
@[simp] theorem State.setA_cycles (v : Byte) (s : State) : (s.setA v).cycles = s.cycles := rfl
@[simp] theorem State.setA_pending (v : Byte) (s : State) : (s.setA v).pending = s.pending := rfl
@[simp] theorem State.setA_fault (v : Byte) (s : State) : (s.setA v).fault = s.fault := rfl
@[simp] theorem State.setA_stopped (v : Byte) (s : State) : (s.setA v).stopped = s.stopped := rfl
@[simp] theorem State.setA_ram (v : Byte) (s : State) : (s.setA v).ram = s.ram := rfl
@[simp] theorem State.setA_prg (v : Byte) (s : State) : (s.setA v).prg = s.prg := rfl
@[simp] theorem State.setA_bank (v : Byte) (s : State) : (s.setA v).bank = s.bank := rfl
@[simp] theorem State.setA_chr (v : Byte) (s : State) : (s.setA v).chr = s.chr := rfl
@[simp] theorem State.setA_mirroring (v : Byte) (s : State) : (s.setA v).mirroring = s.mirroring := rfl
@[simp] theorem State.setA_draws (v : Byte) (s : State) : (s.setA v).draws = s.draws := rfl
@[simp] theorem State.setA_events (v : Byte) (s : State) : (s.setA v).events = s.events := rfl

/-! `State.setX` -/

@[simp] theorem State.setX_a (v : Byte) (s : State) : (s.setX v).a = s.a := rfl
@[simp] theorem State.setX_x (v : Byte) (s : State) : (s.setX v).x = v := rfl
@[simp] theorem State.setX_y (v : Byte) (s : State) : (s.setX v).y = s.y := rfl
@[simp] theorem State.setX_sp (v : Byte) (s : State) : (s.setX v).sp = s.sp := rfl
@[simp] theorem State.setX_p (v : Byte) (s : State) : (s.setX v).p = s.p := rfl
@[simp] theorem State.setX_pc (v : Byte) (s : State) : (s.setX v).pc = s.pc := rfl
@[simp] theorem State.setX_cycles (v : Byte) (s : State) : (s.setX v).cycles = s.cycles := rfl
@[simp] theorem State.setX_pending (v : Byte) (s : State) : (s.setX v).pending = s.pending := rfl
@[simp] theorem State.setX_fault (v : Byte) (s : State) : (s.setX v).fault = s.fault := rfl
@[simp] theorem State.setX_stopped (v : Byte) (s : State) : (s.setX v).stopped = s.stopped := rfl
@[simp] theorem State.setX_ram (v : Byte) (s : State) : (s.setX v).ram = s.ram := rfl
@[simp] theorem State.setX_prg (v : Byte) (s : State) : (s.setX v).prg = s.prg := rfl
@[simp] theorem State.setX_bank (v : Byte) (s : State) : (s.setX v).bank = s.bank := rfl
@[simp] theorem State.setX_chr (v : Byte) (s : State) : (s.setX v).chr = s.chr := rfl
@[simp] theorem State.setX_mirroring (v : Byte) (s : State) : (s.setX v).mirroring = s.mirroring := rfl
@[simp] theorem State.setX_draws (v : Byte) (s : State) : (s.setX v).draws = s.draws := rfl
@[simp] theorem State.setX_events (v : Byte) (s : State) : (s.setX v).events = s.events := rfl

/-! `State.setY` -/

@[simp] theorem State.setY_a (v : Byte) (s : State) : (s.setY v).a = s.a := rfl
@[simp] theorem State.setY_x (v : Byte) (s : State) : (s.setY v).x = s.x := rfl
@[simp] theorem State.setY_y (v : Byte) (s : State) : (s.setY v).y = v := rfl
@[simp] theorem State.setY_sp (v : Byte) (s : State) : (s.setY v).sp = s.sp := rfl
@[simp] theorem State.setY_p (v : Byte) (s : State) : (s.setY v).p = s.p := rfl
@[simp] theorem State.setY_pc (v : Byte) (s : State) : (s.setY v).pc = s.pc := rfl
@[simp] theorem State.setY_cycles (v : Byte) (s : State) : (s.setY v).cycles = s.cycles := rfl
@[simp] theorem State.setY_pending (v : Byte) (s : State) : (s.setY v).pending = s.pending := rfl
@[simp] theorem State.setY_fault (v : Byte) (s : State) : (s.setY v).fault = s.fault := rfl
@[simp] theorem State.setY_stopped (v : Byte) (s : State) : (s.setY v).stopped = s.stopped := rfl
@[simp] theorem State.setY_ram (v : Byte) (s : State) : (s.setY v).ram = s.ram := rfl
@[simp] theorem State.setY_prg (v : Byte) (s : State) : (s.setY v).prg = s.prg := rfl
@[simp] theorem State.setY_bank (v : Byte) (s : State) : (s.setY v).bank = s.bank := rfl
@[simp] theorem State.setY_chr (v : Byte) (s : State) : (s.setY v).chr = s.chr := rfl
@[simp] theorem State.setY_mirroring (v : Byte) (s : State) : (s.setY v).mirroring = s.mirroring := rfl
@[simp] theorem State.setY_draws (v : Byte) (s : State) : (s.setY v).draws = s.draws := rfl
@[simp] theorem State.setY_events (v : Byte) (s : State) : (s.setY v).events = s.events := rfl

/-! `State.setSp` -/

@[simp] theorem State.setSp_a (v : Byte) (s : State) : (s.setSp v).a = s.a := rfl
@[simp] theorem State.setSp_x (v : Byte) (s : State) : (s.setSp v).x = s.x := rfl
@[simp] theorem State.setSp_y (v : Byte) (s : State) : (s.setSp v).y = s.y := rfl
@[simp] theorem State.setSp_sp (v : Byte) (s : State) : (s.setSp v).sp = v := rfl
@[simp] theorem State.setSp_p (v : Byte) (s : State) : (s.setSp v).p = s.p := rfl
@[simp] theorem State.setSp_pc (v : Byte) (s : State) : (s.setSp v).pc = s.pc := rfl
@[simp] theorem State.setSp_cycles (v : Byte) (s : State) : (s.setSp v).cycles = s.cycles := rfl
@[simp] theorem State.setSp_pending (v : Byte) (s : State) : (s.setSp v).pending = s.pending := rfl
@[simp] theorem State.setSp_fault (v : Byte) (s : State) : (s.setSp v).fault = s.fault := rfl
@[simp] theorem State.setSp_stopped (v : Byte) (s : State) : (s.setSp v).stopped = s.stopped := rfl
@[simp] theorem State.setSp_ram (v : Byte) (s : State) : (s.setSp v).ram = s.ram := rfl
@[simp] theorem State.setSp_prg (v : Byte) (s : State) : (s.setSp v).prg = s.prg := rfl
@[simp] theorem State.setSp_bank (v : Byte) (s : State) : (s.setSp v).bank = s.bank := rfl
@[simp] theorem State.setSp_chr (v : Byte) (s : State) : (s.setSp v).chr = s.chr := rfl
@[simp] theorem State.setSp_mirroring (v : Byte) (s : State) : (s.setSp v).mirroring = s.mirroring := rfl
@[simp] theorem State.setSp_draws (v : Byte) (s : State) : (s.setSp v).draws = s.draws := rfl
@[simp] theorem State.setSp_events (v : Byte) (s : State) : (s.setSp v).events = s.events := rfl

/-! `State.setP` -/

@[simp] theorem State.setP_a (v : Byte) (s : State) : (s.setP v).a = s.a := rfl
@[simp] theorem State.setP_x (v : Byte) (s : State) : (s.setP v).x = s.x := rfl
@[simp] theorem State.setP_y (v : Byte) (s : State) : (s.setP v).y = s.y := rfl
@[simp] theorem State.setP_sp (v : Byte) (s : State) : (s.setP v).sp = s.sp := rfl
@[simp] theorem State.setP_p (v : Byte) (s : State) : (s.setP v).p = v := rfl
@[simp] theorem State.setP_pc (v : Byte) (s : State) : (s.setP v).pc = s.pc := rfl
@[simp] theorem State.setP_cycles (v : Byte) (s : State) : (s.setP v).cycles = s.cycles := rfl
@[simp] theorem State.setP_pending (v : Byte) (s : State) : (s.setP v).pending = s.pending := rfl
@[simp] theorem State.setP_fault (v : Byte) (s : State) : (s.setP v).fault = s.fault := rfl
@[simp] theorem State.setP_stopped (v : Byte) (s : State) : (s.setP v).stopped = s.stopped := rfl
@[simp] theorem State.setP_ram (v : Byte) (s : State) : (s.setP v).ram = s.ram := rfl
@[simp] theorem State.setP_prg (v : Byte) (s : State) : (s.setP v).prg = s.prg := rfl
@[simp] theorem State.setP_bank (v : Byte) (s : State) : (s.setP v).bank = s.bank := rfl
@[simp] theorem State.setP_chr (v : Byte) (s : State) : (s.setP v).chr = s.chr := rfl
@[simp] theorem State.setP_mirroring (v : Byte) (s : State) : (s.setP v).mirroring = s.mirroring := rfl
@[simp] theorem State.setP_draws (v : Byte) (s : State) : (s.setP v).draws = s.draws := rfl
@[simp] theorem State.setP_events (v : Byte) (s : State) : (s.setP v).events = s.events := rfl

/-! `State.setPc` -/

@[simp] theorem State.setPc_a (v : Word) (s : State) : (s.setPc v).a = s.a := rfl
@[simp] theorem State.setPc_x (v : Word) (s : State) : (s.setPc v).x = s.x := rfl
@[simp] theorem State.setPc_y (v : Word) (s : State) : (s.setPc v).y = s.y := rfl
@[simp] theorem State.setPc_sp (v : Word) (s : State) : (s.setPc v).sp = s.sp := rfl
@[simp] theorem State.setPc_p (v : Word) (s : State) : (s.setPc v).p = s.p := rfl
@[simp] theorem State.setPc_pc (v : Word) (s : State) : (s.setPc v).pc = v := rfl
@[simp] theorem State.setPc_cycles (v : Word) (s : State) : (s.setPc v).cycles = s.cycles := rfl
@[simp] theorem State.setPc_pending (v : Word) (s : State) : (s.setPc v).pending = s.pending := rfl
@[simp] theorem State.setPc_fault (v : Word) (s : State) : (s.setPc v).fault = s.fault := rfl
@[simp] theorem State.setPc_stopped (v : Word) (s : State) : (s.setPc v).stopped = s.stopped := rfl
@[simp] theorem State.setPc_ram (v : Word) (s : State) : (s.setPc v).ram = s.ram := rfl
@[simp] theorem State.setPc_prg (v : Word) (s : State) : (s.setPc v).prg = s.prg := rfl
@[simp] theorem State.setPc_bank (v : Word) (s : State) : (s.setPc v).bank = s.bank := rfl
@[simp] theorem State.setPc_chr (v : Word) (s : State) : (s.setPc v).chr = s.chr := rfl
@[simp] theorem State.setPc_mirroring (v : Word) (s : State) : (s.setPc v).mirroring = s.mirroring := rfl
@[simp] theorem State.setPc_draws (v : Word) (s : State) : (s.setPc v).draws = s.draws := rfl
@[simp] theorem State.setPc_events (v : Word) (s : State) : (s.setPc v).events = s.events := rfl

/-! `State.setPending` -/

@[simp] theorem State.setPending_a (v : Option IrqKind) (s : State) : (s.setPending v).a = s.a := rfl
@[simp] theorem State.setPending_x (v : Option IrqKind) (s : State) : (s.setPending v).x = s.x := rfl
@[simp] theorem State.setPending_y (v : Option IrqKind) (s : State) : (s.setPending v).y = s.y := rfl
@[simp] theorem State.setPending_sp (v : Option IrqKind) (s : State) : (s.setPending v).sp = s.sp := rfl
@[simp] theorem State.setPending_p (v : Option IrqKind) (s : State) : (s.setPending v).p = s.p := rfl
@[simp] theorem State.setPending_pc (v : Option IrqKind) (s : State) : (s.setPending v).pc = s.pc := rfl
@[simp] theorem State.setPending_cycles (v : Option IrqKind) (s : State) : (s.setPending v).cycles = s.cycles := rfl
@[simp] theorem State.setPending_pending (v : Option IrqKind) (s : State) : (s.setPending v).pending = v := rfl
@[simp] theorem State.setPending_fault (v : Option IrqKind) (s : State) : (s.setPending v).fault = s.fault := rfl
@[simp] theorem State.setPending_stopped (v : Option IrqKind) (s : State) : (s.setPending v).stopped = s.stopped := rfl
@[simp] theorem State.setPending_ram (v : Option IrqKind) (s : State) : (s.setPending v).ram = s.ram := rfl
@[simp] theorem State.setPending_prg (v : Option IrqKind) (s : State) : (s.setPending v).prg = s.prg := rfl
@[simp] theorem State.setPending_bank (v : Option IrqKind) (s : State) : (s.setPending v).bank = s.bank := rfl
@[simp] theorem State.setPending_chr (v : Option IrqKind) (s : State) : (s.setPending v).chr = s.chr := rfl
@[simp] theorem State.setPending_mirroring (v : Option IrqKind) (s : State) : (s.setPending v).mirroring = s.mirroring := rfl
@[simp] theorem State.setPending_draws (v : Option IrqKind) (s : State) : (s.setPending v).draws = s.draws := rfl
@[simp] theorem State.setPending_events (v : Option IrqKind) (s : State) : (s.setPending v).events = s.events := rfl

/-! `State.setStopped` -/

@[simp] theorem State.setStopped_a (v : Bool) (s : State) : (s.setStopped v).a = s.a := rfl
@[simp] theorem State.setStopped_x (v : Bool) (s : State) : (s.setStopped v).x = s.x := rfl
@[simp] theorem State.setStopped_y (v : Bool) (s : State) : (s.setStopped v).y = s.y := rfl
@[simp] theorem State.setStopped_sp (v : Bool) (s : State) : (s.setStopped v).sp = s.sp := rfl
@[simp] theorem State.setStopped_p (v : Bool) (s : State) : (s.setStopped v).p = s.p := rfl
@[simp] theorem State.setStopped_pc (v : Bool) (s : State) : (s.setStopped v).pc = s.pc := rfl
@[simp] theorem State.setStopped_cycles (v : Bool) (s : State) : (s.setStopped v).cycles = s.cycles := rfl
@[simp] theorem State.setStopped_pending (v : Bool) (s : State) : (s.setStopped v).pending = s.pending := rfl
@[simp] theorem State.setStopped_fault (v : Bool) (s : State) : (s.setStopped v).fault = s.fault := rfl
@[simp] theorem State.setStopped_stopped (v : Bool) (s : State) : (s.setStopped v).stopped = v := rfl
@[simp] theorem State.setStopped_ram (v : Bool) (s : State) : (s.setStopped v).ram = s.ram := rfl
@[simp] theorem State.setStopped_prg (v : Bool) (s : State) : (s.setStopped v).prg = s.prg := rfl
@[simp] theorem State.setStopped_bank (v : Bool) (s : State) : (s.setStopped v).bank = s.bank := rfl
@[simp] theorem State.setStopped_chr (v : Bool) (s : State) : (s.setStopped v).chr = s.chr := rfl
@[simp] theorem State.setStopped_mirroring (v : Bool) (s : State) : (s.setStopped v).mirroring = s.mirroring := rfl
@[simp] theorem State.setStopped_draws (v : Bool) (s : State) : (s.setStopped v).draws = s.draws := rfl
@[simp] theorem State.setStopped_events (v : Bool) (s : State) : (s.setStopped v).events = s.events := rfl

/-! `State.setRam` -/

@[simp] theorem State.setRam_a (m : Memory) (s : State) : (s.setRam m).a = s.a := rfl
@[simp] theorem State.setRam_x (m : Memory) (s : State) : (s.setRam m).x = s.x := rfl
@[simp] theorem State.setRam_y (m : Memory) (s : State) : (s.setRam m).y = s.y := rfl
@[simp] theorem State.setRam_sp (m : Memory) (s : State) : (s.setRam m).sp = s.sp := rfl
@[simp] theorem State.setRam_p (m : Memory) (s : State) : (s.setRam m).p = s.p := rfl
@[simp] theorem State.setRam_pc (m : Memory) (s : State) : (s.setRam m).pc = s.pc := rfl
@[simp] theorem State.setRam_cycles (m : Memory) (s : State) : (s.setRam m).cycles = s.cycles := rfl
@[simp] theorem State.setRam_pending (m : Memory) (s : State) : (s.setRam m).pending = s.pending := rfl
@[simp] theorem State.setRam_fault (m : Memory) (s : State) : (s.setRam m).fault = s.fault := rfl
@[simp] theorem State.setRam_stopped (m : Memory) (s : State) : (s.setRam m).stopped = s.stopped := rfl
@[simp] theorem State.setRam_ram (m : Memory) (s : State) : (s.setRam m).ram = m := rfl
@[simp] theorem State.setRam_prg (m : Memory) (s : State) : (s.setRam m).prg = s.prg := rfl
@[simp] theorem State.setRam_bank (m : Memory) (s : State) : (s.setRam m).bank = s.bank := rfl
@[simp] theorem State.setRam_chr (m : Memory) (s : State) : (s.setRam m).chr = s.chr := rfl
@[simp] theorem State.setRam_mirroring (m : Memory) (s : State) : (s.setRam m).mirroring = s.mirroring := rfl
@[simp] theorem State.setRam_draws (m : Memory) (s : State) : (s.setRam m).draws = s.draws := rfl
@[simp] theorem State.setRam_events (m : Memory) (s : State) : (s.setRam m).events = s.events := rfl

/-! `State.setPrg` -/

@[simp] theorem State.setPrg_a (m : Memory) (s : State) : (s.setPrg m).a = s.a := rfl
@[simp] theorem State.setPrg_x (m : Memory) (s : State) : (s.setPrg m).x = s.x := rfl
@[simp] theorem State.setPrg_y (m : Memory) (s : State) : (s.setPrg m).y = s.y := rfl
@[simp] theorem State.setPrg_sp (m : Memory) (s : State) : (s.setPrg m).sp = s.sp := rfl
@[simp] theorem State.setPrg_p (m : Memory) (s : State) : (s.setPrg m).p = s.p := rfl
@[simp] theorem State.setPrg_pc (m : Memory) (s : State) : (s.setPrg m).pc = s.pc := rfl
@[simp] theorem State.setPrg_cycles (m : Memory) (s : State) : (s.setPrg m).cycles = s.cycles := rfl
@[simp] theorem State.setPrg_pending (m : Memory) (s : State) : (s.setPrg m).pending = s.pending := rfl
@[simp] theorem State.setPrg_fault (m : Memory) (s : State) : (s.setPrg m).fault = s.fault := rfl
@[simp] theorem State.setPrg_stopped (m : Memory) (s : State) : (s.setPrg m).stopped = s.stopped := rfl
@[simp] theorem State.setPrg_ram (m : Memory) (s : State) : (s.setPrg m).ram = s.ram := rfl
@[simp] theorem State.setPrg_prg (m : Memory) (s : State) : (s.setPrg m).prg = m := rfl
@[simp] theorem State.setPrg_bank (m : Memory) (s : State) : (s.setPrg m).bank = s.bank := rfl
@[simp] theorem State.setPrg_chr (m : Memory) (s : State) : (s.setPrg m).chr = s.chr := rfl
@[simp] theorem State.setPrg_mirroring (m : Memory) (s : State) : (s.setPrg m).mirroring = s.mirroring := rfl
@[simp] theorem State.setPrg_draws (m : Memory) (s : State) : (s.setPrg m).draws = s.draws := rfl
@[simp] theorem State.setPrg_events (m : Memory) (s : State) : (s.setPrg m).events = s.events := rfl

/-! `State.record` -/

@[simp] theorem State.record_a (e : Event) (s : State) : (s.record e).a = s.a := rfl
@[simp] theorem State.record_x (e : Event) (s : State) : (s.record e).x = s.x := rfl
@[simp] theorem State.record_y (e : Event) (s : State) : (s.record e).y = s.y := rfl
@[simp] theorem State.record_sp (e : Event) (s : State) : (s.record e).sp = s.sp := rfl
@[simp] theorem State.record_p (e : Event) (s : State) : (s.record e).p = s.p := rfl
@[simp] theorem State.record_pc (e : Event) (s : State) : (s.record e).pc = s.pc := rfl
@[simp] theorem State.record_cycles (e : Event) (s : State) : (s.record e).cycles = s.cycles := rfl
@[simp] theorem State.record_pending (e : Event) (s : State) : (s.record e).pending = s.pending := rfl
@[simp] theorem State.record_fault (e : Event) (s : State) : (s.record e).fault = s.fault := rfl
@[simp] theorem State.record_stopped (e : Event) (s : State) : (s.record e).stopped = s.stopped := rfl
@[simp] theorem State.record_ram (e : Event) (s : State) : (s.record e).ram = s.ram := rfl
@[simp] theorem State.record_prg (e : Event) (s : State) : (s.record e).prg = s.prg := rfl
@[simp] theorem State.record_bank (e : Event) (s : State) : (s.record e).bank = s.bank := rfl
@[simp] theorem State.record_chr (e : Event) (s : State) : (s.record e).chr = s.chr := rfl
@[simp] theorem State.record_mirroring (e : Event) (s : State) : (s.record e).mirroring = s.mirroring := rfl
@[simp] theorem State.record_draws (e : Event) (s : State) : (s.record e).draws = s.draws := rfl
@[simp] theorem State.record_events (e : Event) (s : State) : (s.record e).events = e :: s.events := rfl

/-! `State.drawn` -/

@[simp] theorem State.drawn_a (s : State) : (s.drawn).a = s.a := rfl
@[simp] theorem State.drawn_x (s : State) : (s.drawn).x = s.x := rfl
@[simp] theorem State.drawn_y (s : State) : (s.drawn).y = s.y := rfl
@[simp] theorem State.drawn_sp (s : State) : (s.drawn).sp = s.sp := rfl
@[simp] theorem State.drawn_p (s : State) : (s.drawn).p = s.p := rfl
@[simp] theorem State.drawn_pc (s : State) : (s.drawn).pc = s.pc := rfl
@[simp] theorem State.drawn_cycles (s : State) : (s.drawn).cycles = s.cycles := rfl
@[simp] theorem State.drawn_pending (s : State) : (s.drawn).pending = s.pending := rfl
@[simp] theorem State.drawn_fault (s : State) : (s.drawn).fault = s.fault := rfl
@[simp] theorem State.drawn_stopped (s : State) : (s.drawn).stopped = s.stopped := rfl
@[simp] theorem State.drawn_ram (s : State) : (s.drawn).ram = s.ram := rfl
@[simp] theorem State.drawn_prg (s : State) : (s.drawn).prg = s.prg := rfl
@[simp] theorem State.drawn_bank (s : State) : (s.drawn).bank = s.bank := rfl
@[simp] theorem State.drawn_chr (s : State) : (s.drawn).chr = s.chr := rfl
@[simp] theorem State.drawn_mirroring (s : State) : (s.drawn).mirroring = s.mirroring := rfl
@[simp] theorem State.drawn_draws (s : State) : (s.drawn).draws = s.draws + 1 := rfl
@[simp] theorem State.drawn_events (s : State) : (s.drawn).events = s.events := rfl

/-! `State.raise` -/

@[simp] theorem State.raise_a (f : Fault) (s : State) : (s.raise f).a = s.a := rfl
@[simp] theorem State.raise_x (f : Fault) (s : State) : (s.raise f).x = s.x := rfl
@[simp] theorem State.raise_y (f : Fault) (s : State) : (s.raise f).y = s.y := rfl
@[simp] theorem State.raise_sp (f : Fault) (s : State) : (s.raise f).sp = s.sp := rfl
@[simp] theorem State.raise_p (f : Fault) (s : State) : (s.raise f).p = s.p := rfl
@[simp] theorem State.raise_pc (f : Fault) (s : State) : (s.raise f).pc = s.pc := rfl
@[simp] theorem State.raise_cycles (f : Fault) (s : State) : (s.raise f).cycles = s.cycles := rfl
@[simp] theorem State.raise_pending (f : Fault) (s : State) : (s.raise f).pending = s.pending := rfl
@[simp] theorem State.raise_fault (f : Fault) (s : State) : (s.raise f).fault = some f := rfl
@[simp] theorem State.raise_stopped (f : Fault) (s : State) : (s.raise f).stopped = s.stopped := rfl
@[simp] theorem State.raise_ram (f : Fault) (s : State) : (s.raise f).ram = s.ram := rfl
@[simp] theorem State.raise_prg (f : Fault) (s : State) : (s.raise f).prg = s.prg := rfl
@[simp] theorem State.raise_bank (f : Fault) (s : State) : (s.raise f).bank = s.bank := rfl
@[simp] theorem State.raise_chr (f : Fault) (s : State) : (s.raise f).chr = s.chr := rfl
@[simp] theorem State.raise_mirroring (f : Fault) (s : State) : (s.raise f).mirroring = s.mirroring := rfl
@[simp] theorem State.raise_draws (f : Fault) (s : State) : (s.raise f).draws = s.draws := rfl
@[simp] theorem State.raise_events (f : Fault) (s : State) : (s.raise f).events = s.events := rfl

/-! `State.setFlag` -/

@[simp] theorem State.setFlag_a (f : Flag) (v : Bool) (s : State) : (s.setFlag f v).a = s.a := rfl
@[simp] theorem State.setFlag_x (f : Flag) (v : Bool) (s : State) : (s.setFlag f v).x = s.x := rfl
@[simp] theorem State.setFlag_y (f : Flag) (v : Bool) (s : State) : (s.setFlag f v).y = s.y := rfl
@[simp] theorem State.setFlag_sp (f : Flag) (v : Bool) (s : State) : (s.setFlag f v).sp = s.sp := rfl
@[simp] theorem State.setFlag_p (f : Flag) (v : Bool) (s : State) : (s.setFlag f v).p = withFlag f v s.p := rfl
@[simp] theorem State.setFlag_pc (f : Flag) (v : Bool) (s : State) : (s.setFlag f v).pc = s.pc := rfl
@[simp] theorem State.setFlag_cycles (f : Flag) (v : Bool) (s : State) : (s.setFlag f v).cycles = s.cycles := rfl
@[simp] theorem State.setFlag_pending (f : Flag) (v : Bool) (s : State) : (s.setFlag f v).pending = s.pending := rfl
@[simp] theorem State.setFlag_fault (f : Flag) (v : Bool) (s : State) : (s.setFlag f v).fault = s.fault := rfl
@[simp] theorem State.setFlag_stopped (f : Flag) (v : Bool) (s : State) : (s.setFlag f v).stopped = s.stopped := rfl
@[simp] theorem State.setFlag_ram (f : Flag) (v : Bool) (s : State) : (s.setFlag f v).ram = s.ram := rfl
@[simp] theorem State.setFlag_prg (f : Flag) (v : Bool) (s : State) : (s.setFlag f v).prg = s.prg := rfl
@[simp] theorem State.setFlag_bank (f : Flag) (v : Bool) (s : State) : (s.setFlag f v).bank = s.bank := rfl
@[simp] theorem State.setFlag_chr (f : Flag) (v : Bool) (s : State) : (s.setFlag f v).chr = s.chr := rfl
@[simp] theorem State.setFlag_mirroring (f : Flag) (v : Bool) (s : State) : (s.setFlag f v).mirroring = s.mirroring := rfl
@[simp] theorem State.setFlag_draws (f : Flag) (v : Bool) (s : State) : (s.setFlag f v).draws = s.draws := rfl
@[simp] theorem State.setFlag_events (f : Flag) (v : Bool) (s : State) : (s.setFlag f v).events = s.events := rfl

/-! `State.setNZ` -/

@[simp] theorem State.setNZ_a (v : Byte) (s : State) : (s.setNZ v).a = s.a := rfl
@[simp] theorem State.setNZ_x (v : Byte) (s : State) : (s.setNZ v).x = s.x := rfl
@[simp] theorem State.setNZ_y (v : Byte) (s : State) : (s.setNZ v).y = s.y := rfl
@[simp] theorem State.setNZ_sp (v : Byte) (s : State) : (s.setNZ v).sp = s.sp := rfl
@[simp] theorem State.setNZ_p (v : Byte) (s : State) : (s.setNZ v).p = withNZ v s.p := rfl
@[simp] theorem State.setNZ_pc (v : Byte) (s : State) : (s.setNZ v).pc = s.pc := rfl
@[simp] theorem State.setNZ_cycles (v : Byte) (s : State) : (s.setNZ v).cycles = s.cycles := rfl
@[simp] theorem State.setNZ_pending (v : Byte) (s : State) : (s.setNZ v).pending = s.pending := rfl
@[simp] theorem State.setNZ_fault (v : Byte) (s : State) : (s.setNZ v).fault = s.fault := rfl
@[simp] theorem State.setNZ_stopped (v : Byte) (s : State) : (s.setNZ v).stopped = s.stopped := rfl
@[simp] theorem State.setNZ_ram (v : Byte) (s : State) : (s.setNZ v).ram = s.ram := rfl
@[simp] theorem State.setNZ_prg (v : Byte) (s : State) : (s.setNZ v).prg = s.prg := rfl
@[simp] theorem State.setNZ_bank (v : Byte) (s : State) : (s.setNZ v).bank = s.bank := rfl
@[simp] theorem State.setNZ_chr (v : Byte) (s : State) : (s.setNZ v).chr = s.chr := rfl
@[simp] theorem State.setNZ_mirroring (v : Byte) (s : State) : (s.setNZ v).mirroring = s.mirroring := rfl
@[simp] theorem State.setNZ_draws (v : Byte) (s : State) : (s.setNZ v).draws = s.draws := rfl
@[simp] theorem State.setNZ_events (v : Byte) (s : State) : (s.setNZ v).events = s.events := rfl

/-! `State.loadA` -/

@[simp] theorem State.loadA_a (v : Byte) (s : State) : (s.loadA v).a = v := rfl
@[simp] theorem State.loadA_x (v : Byte) (s : State) : (s.loadA v).x = s.x := rfl
@[simp] theorem State.loadA_y (v : Byte) (s : State) : (s.loadA v).y = s.y := rfl
@[simp] theorem State.loadA_sp (v : Byte) (s : State) : (s.loadA v).sp = s.sp := rfl
@[simp] theorem State.loadA_p (v : Byte) (s : State) : (s.loadA v).p = withNZ v s.p := rfl
@[simp] theorem State.loadA_pc (v : Byte) (s : State) : (s.loadA v).pc = s.pc := rfl
@[simp] theorem State.loadA_cycles (v : Byte) (s : State) : (s.loadA v).cycles = s.cycles := rfl
@[simp] theorem State.loadA_pending (v : Byte) (s : State) : (s.loadA v).pending = s.pending := rfl
@[simp] theorem State.loadA_fault (v : Byte) (s : State) : (s.loadA v).fault = s.fault := rfl
@[simp] theorem State.loadA_stopped (v : Byte) (s : State) : (s.loadA v).stopped = s.stopped := rfl
@[simp] theorem State.loadA_ram (v : Byte) (s : State) : (s.loadA v).ram = s.ram := rfl
@[simp] theorem State.loadA_prg (v : Byte) (s : State) : (s.loadA v).prg = s.prg := rfl
@[simp] theorem State.loadA_bank (v : Byte) (s : State) : (s.loadA v).bank = s.bank := rfl
@[simp] theorem State.loadA_chr (v : Byte) (s : State) : (s.loadA v).chr = s.chr := rfl
@[simp] theorem State.loadA_mirroring (v : Byte) (s : State) : (s.loadA v).mirroring = s.mirroring := rfl
@[simp] theorem State.loadA_draws (v : Byte) (s : State) : (s.loadA v).draws = s.draws := rfl
@[simp] theorem State.loadA_events (v : Byte) (s : State) : (s.loadA v).events = s.events := rfl

/-! `State.loadX` -/

@[simp] theorem State.loadX_a (v : Byte) (s : State) : (s.loadX v).a = s.a := rfl
@[simp] theorem State.loadX_x (v : Byte) (s : State) : (s.loadX v).x = v := rfl
@[simp] theorem State.loadX_y (v : Byte) (s : State) : (s.loadX v).y = s.y := rfl
@[simp] theorem State.loadX_sp (v : Byte) (s : State) : (s.loadX v).sp = s.sp := rfl
@[simp] theorem State.loadX_p (v : Byte) (s : State) : (s.loadX v).p = withNZ v s.p := rfl
@[simp] theorem State.loadX_pc (v : Byte) (s : State) : (s.loadX v).pc = s.pc := rfl
@[simp] theorem State.loadX_cycles (v : Byte) (s : State) : (s.loadX v).cycles = s.cycles := rfl
@[simp] theorem State.loadX_pending (v : Byte) (s : State) : (s.loadX v).pending = s.pending := rfl
@[simp] theorem State.loadX_fault (v : Byte) (s : State) : (s.loadX v).fault = s.fault := rfl
@[simp] theorem State.loadX_stopped (v : Byte) (s : State) : (s.loadX v).stopped = s.stopped := rfl
@[simp] theorem State.loadX_ram (v : Byte) (s : State) : (s.loadX v).ram = s.ram := rfl
@[simp] theorem State.loadX_prg (v : Byte) (s : State) : (s.loadX v).prg = s.prg := rfl
@[simp] theorem State.loadX_bank (v : Byte) (s : State) : (s.loadX v).bank = s.bank := rfl
@[simp] theorem State.loadX_chr (v : Byte) (s : State) : (s.loadX v).chr = s.chr := rfl
@[simp] theorem State.loadX_mirroring (v : Byte) (s : State) : (s.loadX v).mirroring = s.mirroring := rfl
@[simp] theorem State.loadX_draws (v : Byte) (s : State) : (s.loadX v).draws = s.draws := rfl
@[simp] theorem State.loadX_events (v : Byte) (s : State) : (s.loadX v).events = s.events := rfl

/-! `State.loadY` -/

@[simp] theorem State.loadY_a (v : Byte) (s : State) : (s.loadY v).a = s.a := rfl
@[simp] theorem State.loadY_x (v : Byte) (s : State) : (s.loadY v).x = s.x := rfl
@[simp] theorem State.loadY_y (v : Byte) (s : State) : (s.loadY v).y = v := rfl
@[simp] theorem State.loadY_sp (v : Byte) (s : State) : (s.loadY v).sp = s.sp := rfl
@[simp] theorem State.loadY_p (v : Byte) (s : State) : (s.loadY v).p = withNZ v s.p := rfl
@[simp] theorem State.loadY_pc (v : Byte) (s : State) : (s.loadY v).pc = s.pc := rfl
@[simp] theorem State.loadY_cycles (v : Byte) (s : State) : (s.loadY v).cycles = s.cycles := rfl
@[simp] theorem State.loadY_pending (v : Byte) (s : State) : (s.loadY v).pending = s.pending := rfl
@[simp] theorem State.loadY_fault (v : Byte) (s : State) : (s.loadY v).fault = s.fault := rfl
@[simp] theorem State.loadY_stopped (v : Byte) (s : State) : (s.loadY v).stopped = s.stopped := rfl
@[simp] theorem State.loadY_ram (v : Byte) (s : State) : (s.loadY v).ram = s.ram := rfl
@[simp] theorem State.loadY_prg (v : Byte) (s : State) : (s.loadY v).prg = s.prg := rfl
@[simp] theorem State.loadY_bank (v : Byte) (s : State) : (s.loadY v).bank = s.bank := rfl
@[simp] theorem State.loadY_chr (v : Byte) (s : State) : (s.loadY v).chr = s.chr := rfl
@[simp] theorem State.loadY_mirroring (v : Byte) (s : State) : (s.loadY v).mirroring = s.mirroring := rfl
@[simp] theorem State.loadY_draws (v : Byte) (s : State) : (s.loadY v).draws = s.draws := rfl
@[simp] theorem State.loadY_events (v : Byte) (s : State) : (s.loadY v).events = s.events := rfl

/-! `State.addWithCarry` -/

@[simp] theorem State.addWithCarry_a (v : Byte) (s : State) : (s.addWithCarry v).a = (addBytes s.a v (s.flag .c)).result := rfl
@[simp] theorem State.addWithCarry_x (v : Byte) (s : State) : (s.addWithCarry v).x = s.x := rfl
@[simp] theorem State.addWithCarry_y (v : Byte) (s : State) : (s.addWithCarry v).y = s.y := rfl
@[simp] theorem State.addWithCarry_sp (v : Byte) (s : State) : (s.addWithCarry v).sp = s.sp := rfl
@[simp] theorem State.addWithCarry_p (v : Byte) (s : State) : (s.addWithCarry v).p = withNZ (addBytes s.a v (s.flag .c)).result
      (withFlag .v (addBytes s.a v (s.flag .c)).overflow (withFlag .c (addBytes s.a v (s.flag .c)).carry s.p)) := rfl
@[simp] theorem State.addWithCarry_pc (v : Byte) (s : State) : (s.addWithCarry v).pc = s.pc := rfl
@[simp] theorem State.addWithCarry_cycles (v : Byte) (s : State) : (s.addWithCarry v).cycles = s.cycles := rfl
@[simp] theorem State.addWithCarry_pending (v : Byte) (s : State) : (s.addWithCarry v).pending = s.pending := rfl
@[simp] theorem State.addWithCarry_fault (v : Byte) (s : State) : (s.addWithCarry v).fault = s.fault := rfl
@[simp] theorem State.addWithCarry_stopped (v : Byte) (s : State) : (s.addWithCarry v).stopped = s.stopped := rfl
@[simp] theorem State.addWithCarry_ram (v : Byte) (s : State) : (s.addWithCarry v).ram = s.ram := rfl
@[simp] theorem State.addWithCarry_prg (v : Byte) (s : State) : (s.addWithCarry v).prg = s.prg := rfl
@[simp] theorem State.addWithCarry_bank (v : Byte) (s : State) : (s.addWithCarry v).bank = s.bank := rfl
@[simp] theorem State.addWithCarry_chr (v : Byte) (s : State) : (s.addWithCarry v).chr = s.chr := rfl
@[simp] theorem State.addWithCarry_mirroring (v : Byte) (s : State) : (s.addWithCarry v).mirroring = s.mirroring := rfl
@[simp] theorem State.addWithCarry_draws (v : Byte) (s : State) : (s.addWithCarry v).draws = s.draws := rfl
@[simp] theorem State.addWithCarry_events (v : Byte) (s : State) : (s.addWithCarry v).events = s.events := rfl

/-! `State.compare` -/

@[simp] theorem State.compare_a (r v : Byte) (s : State) : (s.compare r v).a = s.a := rfl
@[simp] theorem State.compare_x (r v : Byte) (s : State) : (s.compare r v).x = s.x := rfl
@[simp] theorem State.compare_y (r v : Byte) (s : State) : (s.compare r v).y = s.y := rfl
@[simp] theorem State.compare_sp (r v : Byte) (s : State) : (s.compare r v).sp = s.sp := rfl
@[simp] theorem State.compare_p (r v : Byte) (s : State) : (s.compare r v).p = compareFlags r v s.p := rfl
@[simp] theorem State.compare_pc (r v : Byte) (s : State) : (s.compare r v).pc = s.pc := rfl
@[simp] theorem State.compare_cycles (r v : Byte) (s : State) : (s.compare r v).cycles = s.cycles := rfl
@[simp] theorem State.compare_pending (r v : Byte) (s : State) : (s.compare r v).pending = s.pending := rfl
@[simp] theorem State.compare_fault (r v : Byte) (s : State) : (s.compare r v).fault = s.fault := rfl
@[simp] theorem State.compare_stopped (r v : Byte) (s : State) : (s.compare r v).stopped = s.stopped := rfl
@[simp] theorem State.compare_ram (r v : Byte) (s : State) : (s.compare r v).ram = s.ram := rfl
@[simp] theorem State.compare_prg (r v : Byte) (s : State) : (s.compare r v).prg = s.prg := rfl
@[simp] theorem State.compare_bank (r v : Byte) (s : State) : (s.compare r v).bank = s.bank := rfl
@[simp] theorem State.compare_chr (r v : Byte) (s : State) : (s.compare r v).chr = s.chr := rfl
@[simp] theorem State.compare_mirroring (r v : Byte) (s : State) : (s.compare r v).mirroring = s.mirroring := rfl
@[simp] theorem State.compare_draws (r v : Byte) (s : State) : (s.compare r v).draws = s.draws := rfl
@[simp] theorem State.compare_events (r v : Byte) (s : State) : (s.compare r v).events = s.events := rfl

/-! `charge` and `account` -/

@[simp] theorem charge_a (n : Nat) (s : State) : (charge n s).a = s.a := rfl
@[simp] theorem charge_x (n : Nat) (s : State) : (charge n s).x = s.x := rfl
@[simp] theorem charge_y (n : Nat) (s : State) : (charge n s).y = s.y := rfl
@[simp] theorem charge_sp (n : Nat) (s : State) : (charge n s).sp = s.sp := rfl
@[simp] theorem charge_p (n : Nat) (s : State) : (charge n s).p = s.p := rfl
@[simp] theorem charge_pc (n : Nat) (s : State) : (charge n s).pc = s.pc := rfl
@[simp] theorem charge_cycles (n : Nat) (s : State) : (charge n s).cycles = s.cycles + n := rfl
@[simp] theorem charge_pending (n : Nat) (s : State) : (charge n s).pending = s.pending := rfl
@[simp] theorem charge_fault (n : Nat) (s : State) : (charge n s).fault = s.fault := rfl
@[simp] theorem charge_stopped (n : Nat) (s : State) : (charge n s).stopped = s.stopped := rfl
@[simp] theorem charge_ram (n : Nat) (s : State) : (charge n s).ram = s.ram := rfl
@[simp] theorem charge_prg (n : Nat) (s : State) : (charge n s).prg = s.prg := rfl
@[simp] theorem charge_bank (n : Nat) (s : State) : (charge n s).bank = s.bank := rfl
@[simp] theorem charge_chr (n : Nat) (s : State) : (charge n s).chr = s.chr := rfl
@[simp] theorem charge_mirroring (n : Nat) (s : State) : (charge n s).mirroring = s.mirroring := rfl
@[simp] theorem charge_draws (n : Nat) (s : State) : (charge n s).draws = s.draws := rfl
@[simp] theorem charge_events (n : Nat) (s : State) : (charge n s).events = .videoTick (Config.ticksPerCycle * n) :: s.events := rfl

@[simp] theorem account_a (i : Instr) (k : Bool) (n : Nat) (s : State) : (account i k n s).a = s.a := rfl
@[simp] theorem account_x (i : Instr) (k : Bool) (n : Nat) (s : State) : (account i k n s).x = s.x := rfl
@[simp] theorem account_y (i : Instr) (k : Bool) (n : Nat) (s : State) : (account i k n s).y = s.y := rfl
@[simp] theorem account_sp (i : Instr) (k : Bool) (n : Nat) (s : State) : (account i k n s).sp = s.sp := rfl
@[simp] theorem account_p (i : Instr) (k : Bool) (n : Nat) (s : State) : (account i k n s).p = s.p := rfl
@[simp] theorem account_pc (i : Instr) (k : Bool) (n : Nat) (s : State) : (account i k n s).pc = s.pc := rfl
@[simp] theorem account_cycles (i : Instr) (k : Bool) (n : Nat) (s : State) :
    (account i k n s).cycles = s.cycles + (i.baseCycles + (if i.pagePenalty && k then 1 else 0) + n) := rfl
@[simp] theorem account_pending (i : Instr) (k : Bool) (n : Nat) (s : State) : (account i k n s).pending = s.pending := rfl
@[simp] theorem account_fault (i : Instr) (k : Bool) (n : Nat) (s : State) : (account i k n s).fault = s.fault := rfl
@[simp] theorem account_stopped (i : Instr) (k : Bool) (n : Nat) (s : State) : (account i k n s).stopped = s.stopped := rfl
@[simp] theorem account_ram (i : Instr) (k : Bool) (n : Nat) (s : State) : (account i k n s).ram = s.ram := rfl
@[simp] theorem account_prg (i : Instr) (k : Bool) (n : Nat) (s : State) : (account i k n s).prg = s.prg := rfl
@[simp] theorem account_bank (i : Instr) (k : Bool) (n : Nat) (s : State) : (account i k n s).bank = s.bank := rfl
@[simp] theorem account_chr (i : Instr) (k : Bool) (n : Nat) (s : State) : (account i k n s).chr = s.chr := rfl
@[simp] theorem account_mirroring (i : Instr) (k : Bool) (n : Nat) (s : State) : (account i k n s).mirroring = s.mirroring := rfl
@[simp] theorem account_draws (i : Instr) (k : Bool) (n : Nat) (s : State) : (account i k n s).draws = s.draws := rfl
@[simp] theorem account_events (i : Instr) (k : Bool) (n : Nat) (s : State) :
    (account i k n s).events = .videoTick (Config.ticksPerCycle * (i.baseCycles + (if i.pagePenalty && k then 1 else 0) + n)) :: s.events := rfl

end Sys2Proof.Machine
end

