-- ==== Sys2Proof/Laws/Flags.lean ====
section
/-! SUPPORT. The bits of the status byte under every flag computation. -/

namespace Sys2Proof.Machine

set_option Elab.async false

theorem withFlag_bit (f g : Flag) (v : Bool) (p : Byte) :
    (withFlag f v p).getLsbD g.bit = if g = f then v else p.getLsbD g.bit := by
  revert p
  cases f <;> cases g <;> cases v <;> decide +kernel

theorem withFlag_unused (f : Flag) (v : Bool) (p : Byte) :
    (withFlag f v p).getLsbD unusedBit = p.getLsbD unusedBit := by
  revert p
  cases f <;> cases v <;> decide +kernel

theorem withNZ_bit (g : Flag) (v p : Byte) :
    (withNZ v p).getLsbD g.bit =
      if g = .n then v.getLsbD 7 else if g = .z then decide (v = 0) else p.getLsbD g.bit := by
  simp [withNZ, withFlag_bit]

theorem withNZ_unused (v p : Byte) : (withNZ v p).getLsbD unusedBit = p.getLsbD unusedBit := by
  simp [withNZ, withFlag_unused]

theorem compareFlags_bit (g : Flag) (r v p : Byte) :
    (compareFlags r v p).getLsbD g.bit =
      if g = .n then (r - v).getLsbD 7 else if g = .z then decide (r = v)
      else if g = .c then decide (v.toNat ≤ r.toNat) else p.getLsbD g.bit := by
  simp [compareFlags, withFlag_bit]

theorem compareFlags_unused (r v p : Byte) :
    (compareFlags r v p).getLsbD unusedBit = p.getLsbD unusedBit := by
  simp [compareFlags, withFlag_unused]

theorem importP_bit (g : Flag) (v : Byte) :
    (importP v).getLsbD g.bit = if g = .b then false else v.getLsbD g.bit := by
  revert v
  cases g <;> decide +kernel

theorem importP_unused (v : Byte) : (importP v).getLsbD unusedBit = true := by
  revert v
  decide +kernel

theorem exportP_bit (g : Flag) (p : Byte) :
    (exportP p).getLsbD g.bit = if g = .b then true else p.getLsbD g.bit := by
  revert p
  cases g <;> decide +kernel

theorem exportP_unused (p : Byte) : (exportP p).getLsbD unusedBit = true := by
  revert p
  decide +kernel

/-- A byte that P held comes back through a push and a pull as it was, but for B, which is then clear (R34). -/
theorem importP_exportP (p : Byte) (h : p.getLsbD unusedBit = true) :
    importP (exportP p) = withFlag .b false p := by
  revert p
  decide +kernel

/-! The flags of a state under each update of P. -/

theorem flag_eq_of_p {s t : State} (h : t.p = s.p) (g : Flag) : t.flag g = s.flag g := by simp [State.flag, h]

theorem unused_eq_of_p {s t : State} (h : t.p = s.p) : t.unused = s.unused := by simp [State.unused, h]

@[simp] theorem State.setP_flag (v : Byte) (s : State) (g : Flag) : (s.setP v).flag g = v.getLsbD g.bit := rfl

@[simp] theorem State.setFlag_flag (f g : Flag) (v : Bool) (s : State) :
    (s.setFlag f v).flag g = if g = f then v else s.flag g := withFlag_bit f g v s.p

@[simp] theorem State.setNZ_flag (g : Flag) (v : Byte) (s : State) :
    (s.setNZ v).flag g = if g = .n then v.getLsbD 7 else if g = .z then decide (v = 0) else s.flag g :=
  withNZ_bit g v s.p

@[simp] theorem State.compare_flag (g : Flag) (r v : Byte) (s : State) :
    (s.compare r v).flag g =
      if g = .n then (r - v).getLsbD 7 else if g = .z then decide (r = v)
      else if g = .c then decide (v.toNat ≤ r.toNat) else s.flag g :=
  compareFlags_bit g r v s.p

@[simp] theorem State.loadA_flag (g : Flag) (v : Byte) (s : State) :
    (s.loadA v).flag g = if g = .n then v.getLsbD 7 else if g = .z then decide (v = 0) else s.flag g :=
  withNZ_bit g v s.p

@[simp] theorem State.loadX_flag (g : Flag) (v : Byte) (s : State) :
    (s.loadX v).flag g = if g = .n then v.getLsbD 7 else if g = .z then decide (v = 0) else s.flag g :=
  withNZ_bit g v s.p

@[simp] theorem State.loadY_flag (g : Flag) (v : Byte) (s : State) :
    (s.loadY v).flag g = if g = .n then v.getLsbD 7 else if g = .z then decide (v = 0) else s.flag g :=
  withNZ_bit g v s.p

@[simp] theorem State.addWithCarry_flag (g : Flag) (b : Byte) (s : State) :
    (s.addWithCarry b).flag g =
      if g = .n then (addBytes s.a b (s.flag .c)).result.getLsbD 7
      else if g = .z then decide ((addBytes s.a b (s.flag .c)).result = 0)
      else if g = .v then (addBytes s.a b (s.flag .c)).overflow
      else if g = .c then (addBytes s.a b (s.flag .c)).carry else s.flag g := by
  show (withNZ _ (withFlag .v _ (withFlag .c _ s.p))).getLsbD g.bit = _
  rw [withNZ_bit, withFlag_bit, withFlag_bit]
  rfl

@[simp] theorem account_flag (i : Instr) (k : Bool) (n : Nat) (s : State) (g : Flag) :
    (account i k n s).flag g = s.flag g := rfl

@[simp] theorem charge_flag (n : Nat) (s : State) (g : Flag) : (charge n s).flag g = s.flag g := rfl

/-! An update of another field leaves every flag and bit U as they were. -/

@[simp] theorem State.setA_flag (v : Byte) (s : State) (g : Flag) : (s.setA v).flag g = s.flag g := rfl
@[simp] theorem State.setA_unused (v : Byte) (s : State) : (s.setA v).unused = s.unused := rfl
@[simp] theorem State.setX_flag (v : Byte) (s : State) (g : Flag) : (s.setX v).flag g = s.flag g := rfl
@[simp] theorem State.setX_unused (v : Byte) (s : State) : (s.setX v).unused = s.unused := rfl
@[simp] theorem State.setY_flag (v : Byte) (s : State) (g : Flag) : (s.setY v).flag g = s.flag g := rfl
@[simp] theorem State.setY_unused (v : Byte) (s : State) : (s.setY v).unused = s.unused := rfl
@[simp] theorem State.setSp_flag (v : Byte) (s : State) (g : Flag) : (s.setSp v).flag g = s.flag g := rfl
@[simp] theorem State.setSp_unused (v : Byte) (s : State) : (s.setSp v).unused = s.unused := rfl
@[simp] theorem State.setPc_flag (v : Word) (s : State) (g : Flag) : (s.setPc v).flag g = s.flag g := rfl
@[simp] theorem State.setPc_unused (v : Word) (s : State) : (s.setPc v).unused = s.unused := rfl
@[simp] theorem State.setPending_flag (v : Option IrqKind) (s : State) (g : Flag) : (s.setPending v).flag g = s.flag g := rfl
@[simp] theorem State.setPending_unused (v : Option IrqKind) (s : State) : (s.setPending v).unused = s.unused := rfl
@[simp] theorem State.setStopped_flag (v : Bool) (s : State) (g : Flag) : (s.setStopped v).flag g = s.flag g := rfl
@[simp] theorem State.setStopped_unused (v : Bool) (s : State) : (s.setStopped v).unused = s.unused := rfl
@[simp] theorem State.setRam_flag (m : Memory) (s : State) (g : Flag) : (s.setRam m).flag g = s.flag g := rfl
@[simp] theorem State.setRam_unused (m : Memory) (s : State) : (s.setRam m).unused = s.unused := rfl
@[simp] theorem State.setPrg_flag (m : Memory) (s : State) (g : Flag) : (s.setPrg m).flag g = s.flag g := rfl
@[simp] theorem State.setPrg_unused (m : Memory) (s : State) : (s.setPrg m).unused = s.unused := rfl
@[simp] theorem State.record_flag (e : Event) (s : State) (g : Flag) : (s.record e).flag g = s.flag g := rfl
@[simp] theorem State.record_unused (e : Event) (s : State) : (s.record e).unused = s.unused := rfl
@[simp] theorem State.raise_flag (f : Fault) (s : State) (g : Flag) : (s.raise f).flag g = s.flag g := rfl
@[simp] theorem State.raise_unused (f : Fault) (s : State) : (s.raise f).unused = s.unused := rfl
@[simp] theorem State.drawn_flag (s : State) (g : Flag) : s.drawn.flag g = s.flag g := rfl
@[simp] theorem State.drawn_unused (s : State) : s.drawn.unused = s.unused := rfl
@[simp] theorem account_unused (i : Instr) (k : Bool) (n : Nat) (s : State) : (account i k n s).unused = s.unused := rfl
@[simp] theorem charge_unused (n : Nat) (s : State) : (charge n s).unused = s.unused := rfl
@[simp] theorem State.setFlag_unused (f : Flag) (v : Bool) (s : State) : (s.setFlag f v).unused = s.unused :=
  withFlag_unused f v s.p
@[simp] theorem State.setNZ_unused (v : Byte) (s : State) : (s.setNZ v).unused = s.unused := withNZ_unused v s.p
@[simp] theorem State.compare_unused (r v : Byte) (s : State) : (s.compare r v).unused = s.unused :=
  compareFlags_unused r v s.p

end Sys2Proof.Machine
end

