-- ==== Sys2Proof/Laws/Memory.lean ====
section
/-! SUPPORT. Sparse arrays: reading after a write, and that every memory operation keeps the canonical form. -/

namespace Sys2Proof.Machine

set_option Elab.async false

theorem Memory.read_erase_same (m : Memory) (k : Nat) : (m.erase k).read k = Config.unlistedByte := by
  induction m with
  | nil => rfl
  | cons e m ih =>
    obtain ⟨j, b⟩ := e
    by_cases h : j = k
    · simp [Memory.erase, h, ih]
    · simp [Memory.erase, Memory.read, h, ih]

theorem Memory.read_erase_other (m : Memory) {k j : Nat} (h : j ≠ k) : (m.erase k).read j = m.read j := by
  induction m with
  | nil => rfl
  | cons e m ih =>
    obtain ⟨i, b⟩ := e
    by_cases hi : i = k
    · subst hi
      simp [Memory.erase, Memory.read, ih, Ne.symm h]
    · simp [Memory.erase, Memory.read, hi, ih]

theorem Memory.read_insert_other (m : Memory) {k j : Nat} (v : Byte) (h : j ≠ k) :
    (m.insert k v).read j = m.read j := by
  induction m with
  | nil => simp [Memory.insert, Memory.read, Ne.symm h]
  | cons e m ih =>
    obtain ⟨i, b⟩ := e
    by_cases hi : k < i
    · simp [Memory.insert, Memory.read, hi, Ne.symm h]
    · simp [Memory.insert, Memory.read, hi, ih]

theorem Memory.read_insert_erase_same (m : Memory) (k : Nat) (v : Byte) :
    ((m.erase k).insert k v).read k = v := by
  induction m with
  | nil => simp [Memory.erase, Memory.insert, Memory.read]
  | cons e m ih =>
    obtain ⟨i, b⟩ := e
    by_cases hi : i = k
    · simp [Memory.erase, hi, ih]
    · by_cases hk : k < i <;> simp [Memory.erase, Memory.insert, Memory.read, hi, hk, ih]

/-- A read after a write to the same cell gives the byte written. -/
@[simp] theorem Memory.read_write_same (m : Memory) (k : Nat) (v : Byte) : (m.write k v).read k = v := by
  unfold Memory.write
  split
  · rename_i h; rw [Memory.read_erase_same, h]
  · exact Memory.read_insert_erase_same m k v

/-- A write leaves every other cell alone. -/
theorem Memory.read_write_other (m : Memory) {k j : Nat} (v : Byte) (h : j ≠ k) :
    (m.write k v).read j = m.read j := by
  unfold Memory.write
  split
  · exact Memory.read_erase_other m h
  · rw [Memory.read_insert_other _ v h, Memory.read_erase_other m h]

theorem Memory.read_write (m : Memory) (k j : Nat) (v : Byte) :
    (m.write k v).read j = if j = k then v else m.read j := by
  split
  · rename_i h; subst h; exact Memory.read_write_same m j v
  · rename_i h; exact Memory.read_write_other m v h

theorem Memory.wfFrom_mono {size lo lo' : Nat} {m : Memory} (h : lo ≤ lo') (hw : Memory.wfFrom size lo' m = true) :
    Memory.wfFrom size lo m = true := by
  cases m with
  | nil => rfl
  | cons e m =>
    obtain ⟨j, b⟩ := e
    simp only [Memory.wfFrom, Bool.and_eq_true, decide_eq_true_eq] at hw ⊢
    exact ⟨⟨⟨by omega, hw.1.1.2⟩, hw.1.2⟩, hw.2⟩

theorem Memory.wfFrom_erase {size lo : Nat} {m : Memory} (k : Nat) (h : Memory.wfFrom size lo m = true) :
    Memory.wfFrom size lo (m.erase k) = true := by
  induction m generalizing lo with
  | nil => rfl
  | cons e m ih =>
    obtain ⟨j, b⟩ := e
    simp only [Memory.wfFrom, Bool.and_eq_true, decide_eq_true_eq] at h
    by_cases hj : j = k
    · simpa [Memory.erase, hj] using ih (Memory.wfFrom_mono (by omega) h.2)
    · simpa [Memory.erase, hj, Memory.wfFrom, h.1.1.1, h.1.1.2, h.1.2] using ih h.2

theorem Memory.wfFrom_insert {size lo k : Nat} {m : Memory} {v : Byte} (hlo : lo ≤ k) (hk : k < size)
    (hv : v ≠ Config.unlistedByte) (h : Memory.wfFrom size lo m = true) :
    Memory.wfFrom size lo ((m.erase k).insert k v) = true := by
  induction m generalizing lo with
  | nil => simp [Memory.erase, Memory.insert, Memory.wfFrom, hlo, hk, hv]
  | cons e m ih =>
    obtain ⟨j, b⟩ := e
    simp only [Memory.wfFrom, Bool.and_eq_true, decide_eq_true_eq] at h
    by_cases hj : j = k
    · simpa [Memory.erase, hj] using ih hlo (Memory.wfFrom_mono (by omega) h.2)
    · by_cases hkj : k < j
      · have := Memory.wfFrom_erase k h.2
        simp [Memory.erase, Memory.insert, Memory.wfFrom, hj, hkj, hlo, hk, hv, h.1.1.2, h.1.2, this]
      · have := ih (lo := j + 1) (by omega) h.2
        simp [Memory.erase, Memory.insert, Memory.wfFrom, hj, hkj, h.1.1.1, h.1.1.2, h.1.2, this]

/-- A write inside the array keeps the canonical form. -/
theorem Memory.wf_write {size k : Nat} {m : Memory} (v : Byte) (hk : k < size) (h : m.wf size = true) :
    (m.write k v).wf size = true := by
  unfold Memory.write
  split
  · exact Memory.wfFrom_erase k h
  · rename_i hv; exact Memory.wfFrom_insert (Nat.zero_le k) hk hv h

@[simp] theorem Memory.wf_nil (size : Nat) : Memory.wf size [] = true := rfl

theorem Memory.wfFrom_ofBytesFrom {size k : Nat} {bs : List Byte} (h : k + bs.length ≤ size) :
    Memory.wfFrom size k (Memory.ofBytesFrom k bs) = true := by
  induction bs generalizing k with
  | nil => rfl
  | cons b bs ih =>
    simp only [List.length_cons] at h
    have hr := ih (k := k + 1) (by omega)
    unfold Memory.ofBytesFrom
    split
    · exact Memory.wfFrom_mono (Nat.le_succ k) hr
    · rename_i hb
      simp [Memory.wfFrom, hb, hr]
      omega

/-- A list of at most `size` bytes makes an array in canonical form. -/
theorem Memory.wf_ofBytes {size : Nat} {bs : List Byte} (h : bs.length ≤ size) :
    (Memory.ofBytes bs).wf size = true :=
  Memory.wfFrom_ofBytesFrom (by omega)

theorem Memory.read_ofBytesFrom_below {k j : Nat} {bs : List Byte} (h : j < k) :
    (Memory.ofBytesFrom k bs).read j = Config.unlistedByte := by
  induction bs generalizing k with
  | nil => rfl
  | cons b bs ih =>
    unfold Memory.ofBytesFrom
    split
    · exact ih (by omega)
    · simp [Memory.read, show k ≠ j by omega, ih (show j < k + 1 by omega)]

theorem Memory.read_ofBytesFrom (bs : List Byte) (k j : Nat) :
    (Memory.ofBytesFrom k bs).read (k + j) = bs.getD j Config.unlistedByte := by
  induction bs generalizing k j with
  | nil => simp [Memory.ofBytesFrom, Memory.read]
  | cons b bs ih =>
    cases j with
    | zero =>
      unfold Memory.ofBytesFrom
      split
      · rename_i hb; simp [hb, Memory.read_ofBytesFrom_below]
      · simp [Memory.read]
    | succ j =>
      have := ih (k + 1) j
      unfold Memory.ofBytesFrom
      split
      · simpa [Nat.add_comm, Nat.add_left_comm, Nat.add_assoc] using this
      · simp only [Memory.read, show k ≠ k + (j + 1) by omega, if_false]
        simpa [Nat.add_comm, Nat.add_left_comm, Nat.add_assoc] using this

/-- The array of a list of bytes reads as the list. -/
theorem Memory.read_ofBytes (bs : List Byte) (j : Nat) :
    (Memory.ofBytes bs).read j = bs.getD j Config.unlistedByte := by
  have := Memory.read_ofBytesFrom bs 0 j
  simpa [Memory.ofBytes] using this

end Sys2Proof.Machine
end

