-- ==== Sys2Proof/Laws/Bus.lean ====
section
/-! SUPPORT. What a bus access can do to the state, and what the stack and pointer operations come to, whose
addresses are all in RAM. -/

namespace Sys2Proof.Machine

set_option Elab.async false

/-! ### Reads -/

/-- A read changes nothing of the state but the count of answers and the history. -/
theorem busRead_state (a : Word) (s : State) :
    ∃ d e, (busRead a s).2 = { s with draws := d, events := e } := by
  unfold busRead
  cases readTarget a <;> exact ⟨_, _, rfl⟩

/-- A read of RAM, program ROM or unmapped space gives the byte that stands there and has no effect (R76). -/
theorem busRead_plain {a : Word} (s : State) (h1 : readTarget a ≠ .controller)
    (h2 : ∀ r, readTarget a ≠ .video r) : busRead a s = (peek s a, s) := by
  unfold busRead peek
  cases h : readTarget a with
  | controller => exact absurd h h1
  | video r => exact absurd h (h2 r)
  | ram i => rfl
  | rom => rfl
  | zero => rfl

theorem readTarget_of_inRam {a : Word} (h : inRam a = true) : readTarget a = .ram (ramIndex a) := by
  simp [readTarget, h]

theorem writeTarget_of_inRam {a : Word} (h : inRam a = true) : writeTarget a = .ram (ramIndex a) := by
  simp [writeTarget, h]

theorem readTarget_of_inRom {a : Word} (h : inRom a = true) : readTarget a = .rom := by
  have h' : 0x8000 ≤ a.toNat := by simpa [inRom, Config.romBase] using h
  have e1 : inRam a = false := by simp [inRam, Config.ramWindowEnd]; omega
  have e2 : inVideo a = false := by simp [inVideo, Config.videoBase, Config.videoWindowEnd]; omega
  have e3 : readableVideo a = false := by
    simp only [readableVideo, Config.videoStatus, Config.videoOamData, Config.videoData, Bool.or_eq_false_iff]
    refine ⟨⟨?_, ?_⟩, ?_⟩ <;> (apply decide_eq_false; intro e; subst e; revert h'; decide)
  have e4 : a ≠ Config.controllerPort := by
    intro e; subst e; revert h'; decide
  simp [readTarget, e1, e2, e3, e4, h]

theorem writeTarget_of_inRom {a : Word} (h : inRom a = true) : writeTarget a = .rom := by
  have h' : 0x8000 ≤ a.toNat := by simpa [inRom, Config.romBase] using h
  have e1 : inRam a = false := by simp [inRam, Config.ramWindowEnd]; omega
  have e2 : inVideo a = false := by simp [inVideo, Config.videoBase, Config.videoWindowEnd]; omega
  have e4 : a ≠ Config.controllerPort := by
    intro e; subst e; revert h'; decide
  have e5 : a ≠ Config.dmaPort := by
    intro e; subst e; revert h'; decide
  simp [writeTarget, e1, e2, e4, e5, h]

theorem busRead_ram {a : Word} (s : State) (h : inRam a = true) : busRead a s = (s.ram.read (ramIndex a), s) := by
  simp [busRead, readTarget_of_inRam h]

theorem busRead_rom {a : Word} (s : State) (h : inRom a = true) :
    busRead a s = (s.prg.read (romOffset s.bank a), s) := by
  simp [busRead, readTarget_of_inRom h]

theorem peek_ram {a : Word} (s : State) (h : inRam a = true) : peek s a = s.ram.read (ramIndex a) := by
  simp [peek, readTarget_of_inRam h]

theorem peek_rom {a : Word} (s : State) (h : inRom a = true) : peek s a = s.prg.read (romOffset s.bank a) := by
  simp [peek, readTarget_of_inRom h]

/-- What stands at an address depends on RAM and the program ROM alone. -/
theorem peek_congr {s t : State} (hr : t.ram = s.ram) (hp : t.prg = s.prg) (hb : t.bank = s.bank) (a : Word) :
    peek t a = peek s a := by
  simp only [peek, hr, hp, hb]

theorem busRead_unchanged {α : Type} (f : State → α) (a : Word) (s : State)
    (hf : ∀ (t : State) d e, f { t with draws := d, events := e } = f t) : f (busRead a s).2 = f s := by
  obtain ⟨d, e, h⟩ := busRead_state a s
  rw [h, hf]

@[simp] theorem busRead_snd_a (b : Word) (s : State) : (busRead b s).2.a = s.a :=
  busRead_unchanged (·.a) b s (fun _ _ _ => rfl)
@[simp] theorem busRead_snd_x (b : Word) (s : State) : (busRead b s).2.x = s.x :=
  busRead_unchanged (·.x) b s (fun _ _ _ => rfl)
@[simp] theorem busRead_snd_y (b : Word) (s : State) : (busRead b s).2.y = s.y :=
  busRead_unchanged (·.y) b s (fun _ _ _ => rfl)
@[simp] theorem busRead_snd_sp (b : Word) (s : State) : (busRead b s).2.sp = s.sp :=
  busRead_unchanged (·.sp) b s (fun _ _ _ => rfl)
@[simp] theorem busRead_snd_p (b : Word) (s : State) : (busRead b s).2.p = s.p :=
  busRead_unchanged (·.p) b s (fun _ _ _ => rfl)
@[simp] theorem busRead_snd_pc (b : Word) (s : State) : (busRead b s).2.pc = s.pc :=
  busRead_unchanged (·.pc) b s (fun _ _ _ => rfl)
@[simp] theorem busRead_snd_cycles (b : Word) (s : State) : (busRead b s).2.cycles = s.cycles :=
  busRead_unchanged (·.cycles) b s (fun _ _ _ => rfl)
@[simp] theorem busRead_snd_pending (b : Word) (s : State) : (busRead b s).2.pending = s.pending :=
  busRead_unchanged (·.pending) b s (fun _ _ _ => rfl)
@[simp] theorem busRead_snd_fault (b : Word) (s : State) : (busRead b s).2.fault = s.fault :=
  busRead_unchanged (·.fault) b s (fun _ _ _ => rfl)
@[simp] theorem busRead_snd_stopped (b : Word) (s : State) : (busRead b s).2.stopped = s.stopped :=
  busRead_unchanged (·.stopped) b s (fun _ _ _ => rfl)
@[simp] theorem busRead_snd_ram (b : Word) (s : State) : (busRead b s).2.ram = s.ram :=
  busRead_unchanged (·.ram) b s (fun _ _ _ => rfl)
@[simp] theorem busRead_snd_prg (b : Word) (s : State) : (busRead b s).2.prg = s.prg :=
  busRead_unchanged (·.prg) b s (fun _ _ _ => rfl)
@[simp] theorem busRead_snd_bank (b : Word) (s : State) : (busRead b s).2.bank = s.bank :=
  busRead_unchanged (·.bank) b s (fun _ _ _ => rfl)
@[simp] theorem busRead_snd_chr (b : Word) (s : State) : (busRead b s).2.chr = s.chr :=
  busRead_unchanged (·.chr) b s (fun _ _ _ => rfl)
@[simp] theorem busRead_snd_mirroring (b : Word) (s : State) : (busRead b s).2.mirroring = s.mirroring :=
  busRead_unchanged (·.mirroring) b s (fun _ _ _ => rfl)

@[simp] theorem busRead_snd_flag (b : Word) (s : State) (g : Flag) : (busRead b s).2.flag g = s.flag g :=
  busRead_unchanged (·.flag g) b s (fun _ _ _ => rfl)

/-! ### Stack and page-0 addresses -/

theorem ramIndex_lt (a : Word) : ramIndex a < Config.ramSize := by
  have : (a &&& Config.ramMask).toNat ≤ Config.ramMask.toNat := by
    rw [BitVec.toNat_and]; exact Nat.and_le_right
  simp only [ramIndex, Config.ramSize, Config.ramMask] at this ⊢
  exact Nat.lt_of_le_of_lt this (by decide)

theorem romOffset_lt (k : Bank) {a : Word} (h : inRom a = true) : romOffset k a < k.size := by
  have h' : 0x8000 ≤ a.toNat := by simpa [inRom, Config.romBase] using h
  have := a.isLt
  have e : (a - Config.romBase).toNat = a.toNat - 0x8000 := by
    simp only [Config.romBase, BitVec.toNat_sub]
    simp; omega
  cases k with
  | full => simp only [romOffset, Bank.size, Config.fullBank, e]; omega
  | half => simp only [romOffset, Bank.size, Config.halfBank]; exact Nat.mod_lt _ (by decide)

theorem inRam_stackAddr (b : Byte) : inRam (stackAddr b) = true := by
  revert b; decide +kernel

theorem inRom_stackAddr (b : Byte) : inRom (stackAddr b) = false := by
  revert b; decide +kernel

@[simp] theorem ramIndex_stackAddr (b : Byte) : ramIndex (stackAddr b) = 0x100 + b.toNat := by
  revert b; decide +kernel

@[simp] theorem writeFaults_stackAddr (b : Byte) : writeFaults (stackAddr b) = false := by
  simp [writeFaults, writeTarget_of_inRam (inRam_stackAddr b)]

/-- A push writes one cell of the stack page and lowers SP; it can do nothing else (R100). -/
theorem push8_eq (v : Byte) (s : State) :
    push8 v s = (s.setRam (s.ram.write (0x100 + s.sp.toNat) v)).setSp (s.sp - 1) := by
  simp [push8, busWrite, writeTarget_of_inRam (inRam_stackAddr s.sp)]

/-- A pop raises SP and reads one cell of the stack page (R101). -/
theorem pop8_eq (s : State) : pop8 s = (s.ram.read (0x100 + (s.sp + 1).toNat), s.setSp (s.sp + 1)) := by
  show busRead (stackAddr (s.sp + 1)) (s.setSp (s.sp + 1)) = _
  rw [busRead_ram _ (inRam_stackAddr (s.sp + 1)), ramIndex_stackAddr]
  rfl

/-- A 16-bit push (R102). -/
theorem push16_eq (w : Word) (s : State) :
    push16 w s =
      (s.setRam ((s.ram.write (0x100 + s.sp.toNat) (hi8 w)).write (0x100 + (s.sp - 1).toNat) (lo8 w))).setSp
        (s.sp - 2) := by
  simp only [push16, push8_eq, State.setSp, State.setRam]
  rw [show s.sp - 1 - 1 = s.sp - 2 by bv_omega]

/-- A 16-bit pop (R103). -/
theorem pop16_eq (s : State) :
    pop16 s =
      (word16 (s.ram.read (0x100 + (s.sp + 2).toNat)) (s.ram.read (0x100 + (s.sp + 1).toNat)),
        s.setSp (s.sp + 2)) := by
  simp only [pop16, pop8_eq, State.setSp]
  rw [show s.sp + 1 + 1 = s.sp + 2 by bv_omega]

/-- A pop after a push gives the byte back and leaves SP as it was (R103). -/
theorem pop8_push8 (v : Byte) (s : State) : (pop8 (push8 v s)).1 = v ∧ (pop8 (push8 v s)).2.sp = s.sp := by
  rw [push8_eq, pop8_eq]
  constructor
  · have e : s.sp - 1 + 1 = s.sp := by bv_omega
    simp only [State.setSp_sp, State.setSp_ram, State.setRam_ram, e, Memory.read_write_same]
  · show s.sp - 1 + 1 = s.sp
    bv_omega

/-- A 16-bit value is its two bytes (R10). -/
theorem word16_hi8_lo8 (w : Word) : word16 (hi8 w) (lo8 w) = w := by
  apply BitVec.eq_of_toNat_eq
  simp only [word16, hi8, lo8]
  rw [BitVec.toNat_append]
  simp only [BitVec.extractLsb'_toNat]
  have := w.isLt
  rw [← Nat.shiftLeft_add_eq_or_of_lt (by omega)]
  simp [Nat.shiftLeft_eq, Nat.shiftRight_eq_div_pow]
  omega

@[simp] theorem hi8_word16 (h l : Byte) : hi8 (word16 h l) = h := by
  simp only [word16, hi8]
  exact BitVec.extractLsb'_append_eq_left

@[simp] theorem lo8_word16 (h l : Byte) : lo8 (word16 h l) = l := by
  simp only [word16, lo8]
  exact BitVec.extractLsb'_append_eq_right

/-- A 16-bit pop after a 16-bit push gives the value back and leaves SP as it was (R103): the two cells are
different ones. -/
theorem pop16_push16 (w : Word) (s : State) :
    (pop16 (push16 w s)).1 = w ∧ (pop16 (push16 w s)).2.sp = s.sp := by
  rw [push16_eq, pop16_eq]
  have e1 : s.sp - 2 + 1 = s.sp - 1 := by bv_omega
  have e2 : s.sp - 2 + 2 = s.sp := by bv_omega
  have hne : (0x100 + s.sp.toNat) ≠ 0x100 + (s.sp - 1).toNat := by bv_omega
  constructor
  · simp only [State.setSp_sp, State.setSp_ram, State.setRam_ram, e1, e2, Memory.read_write_same]
    rw [Memory.read_write_other _ _ hne, Memory.read_write_same, word16_hi8_lo8]
  · exact e2

/-! ### Writes -/

/-- The bytes of a run of forwarded bytes change nothing of the state but the count of answers and the history. -/
theorem forwardBytes_state (n : Nat) (a : Word) (s : State) :
    ∃ d e, forwardBytes n a s = { s with draws := d, events := e } := by
  induction n generalizing a s with
  | zero => exact ⟨s.draws, s.events, rfl⟩
  | succ n ih =>
    obtain ⟨d, e, h⟩ := busRead_state a s
    obtain ⟨d', e', h'⟩ := ih (a + 1) ((busRead a s).2.record (.videoOamDmaWrite (busRead a s).1))
    refine ⟨d', e', ?_⟩
    show forwardBytes n (a + 1) _ = _
    rw [h', h]
    rfl

/-- What a bus write can do: it writes one cell of RAM, or records a fault, or does neither; and it may use
answers and add to the history. Nothing else of the state changes. -/
theorem busWrite_state (a : Word) (v : Byte) (s : State) :
    (inRam a = true ∧ busWrite a v s = s.setRam (s.ram.write (ramIndex a) v)) ∨
    (inRam a = false ∧ inRom a = true ∧ busWrite a v s = s.raise (.illegalRomWrite a v)) ∨
    (inRam a = false ∧ inRom a = false ∧
      ∃ d e, busWrite a v s = { s with draws := d, events := e }) := by
  by_cases hr : inRam a = true
  · exact .inl ⟨hr, by simp [busWrite, writeTarget_of_inRam hr]⟩
  · have hr' : inRam a = false := by simpa using hr
    by_cases ho : inRom a = true
    · exact .inr (.inl ⟨hr', ho, by simp [busWrite, writeTarget_of_inRom ho]⟩)
    · have ho' : inRom a = false := by simpa using ho
      refine .inr (.inr ⟨hr', ho', ?_⟩)
      unfold busWrite writeTarget
      simp only [hr', ho', Bool.false_eq_true, if_false]
      split_ifs
      · exact ⟨s.draws, _, rfl⟩
      · exact ⟨s.draws, _, rfl⟩
      · exact forwardBytes_state 256 _ s
      · exact ⟨s.draws, s.events, rfl⟩

/-- A write raises exactly in the ROM window (R402). -/
theorem writeFaults_eq_inRom (a : Word) : writeFaults a = inRom a := by
  by_cases ho : inRom a = true
  · simp [writeFaults, writeTarget_of_inRom ho, ho]
  · have ho' : inRom a = false := by simpa using ho
    unfold writeFaults writeTarget
    simp only [ho', Bool.false_eq_true, if_false, decide_eq_false_iff_not]
    split_ifs <;> simp

theorem writeThen_ok {a : Word} (v : Byte) (k : State → State) (s : State) (h : inRom a = false) :
    writeThen a v k s = k (busWrite a v s) := by
  simp [writeThen, writeFaults_eq_inRom, h]

theorem writeThen_fault {a : Word} (v : Byte) (k : State → State) (s : State) (h : inRom a = true) :
    writeThen a v k s = s.raise (.illegalRomWrite a v) := by
  simp [writeThen, writeFaults_eq_inRom, h, busWrite, writeTarget_of_inRom h]

theorem busWrite_unchanged {α : Type} (f : State → α) (a : Word) (v : Byte) (s : State)
    (hr : ∀ (t : State) m, f (t.setRam m) = f t) (hf : ∀ (t : State) e, f (t.raise e) = f t)
    (he : ∀ (t : State) d e, f { t with draws := d, events := e } = f t) : f (busWrite a v s) = f s := by
  rcases busWrite_state a v s with ⟨_, e⟩ | ⟨_, _, e⟩ | ⟨_, _, _, _, e⟩
  · rw [e, hr]
  · rw [e, hf]
  · rw [e, he]

@[simp] theorem busWrite_a (b : Word) (v : Byte) (s : State) : (busWrite b v s).a = s.a :=
  busWrite_unchanged (·.a) b v s (fun _ _ => rfl) (fun _ _ => rfl) (fun _ _ _ => rfl)
@[simp] theorem busWrite_x (b : Word) (v : Byte) (s : State) : (busWrite b v s).x = s.x :=
  busWrite_unchanged (·.x) b v s (fun _ _ => rfl) (fun _ _ => rfl) (fun _ _ _ => rfl)
@[simp] theorem busWrite_y (b : Word) (v : Byte) (s : State) : (busWrite b v s).y = s.y :=
  busWrite_unchanged (·.y) b v s (fun _ _ => rfl) (fun _ _ => rfl) (fun _ _ _ => rfl)
@[simp] theorem busWrite_sp (b : Word) (v : Byte) (s : State) : (busWrite b v s).sp = s.sp :=
  busWrite_unchanged (·.sp) b v s (fun _ _ => rfl) (fun _ _ => rfl) (fun _ _ _ => rfl)
@[simp] theorem busWrite_p (b : Word) (v : Byte) (s : State) : (busWrite b v s).p = s.p :=
  busWrite_unchanged (·.p) b v s (fun _ _ => rfl) (fun _ _ => rfl) (fun _ _ _ => rfl)
@[simp] theorem busWrite_pc (b : Word) (v : Byte) (s : State) : (busWrite b v s).pc = s.pc :=
  busWrite_unchanged (·.pc) b v s (fun _ _ => rfl) (fun _ _ => rfl) (fun _ _ _ => rfl)
@[simp] theorem busWrite_cycles (b : Word) (v : Byte) (s : State) : (busWrite b v s).cycles = s.cycles :=
  busWrite_unchanged (·.cycles) b v s (fun _ _ => rfl) (fun _ _ => rfl) (fun _ _ _ => rfl)
@[simp] theorem busWrite_pending (b : Word) (v : Byte) (s : State) : (busWrite b v s).pending = s.pending :=
  busWrite_unchanged (·.pending) b v s (fun _ _ => rfl) (fun _ _ => rfl) (fun _ _ _ => rfl)
@[simp] theorem busWrite_stopped (b : Word) (v : Byte) (s : State) : (busWrite b v s).stopped = s.stopped :=
  busWrite_unchanged (·.stopped) b v s (fun _ _ => rfl) (fun _ _ => rfl) (fun _ _ _ => rfl)
@[simp] theorem busWrite_prg (b : Word) (v : Byte) (s : State) : (busWrite b v s).prg = s.prg :=
  busWrite_unchanged (·.prg) b v s (fun _ _ => rfl) (fun _ _ => rfl) (fun _ _ _ => rfl)
@[simp] theorem busWrite_bank (b : Word) (v : Byte) (s : State) : (busWrite b v s).bank = s.bank :=
  busWrite_unchanged (·.bank) b v s (fun _ _ => rfl) (fun _ _ => rfl) (fun _ _ _ => rfl)
@[simp] theorem busWrite_chr (b : Word) (v : Byte) (s : State) : (busWrite b v s).chr = s.chr :=
  busWrite_unchanged (·.chr) b v s (fun _ _ => rfl) (fun _ _ => rfl) (fun _ _ _ => rfl)
@[simp] theorem busWrite_mirroring (b : Word) (v : Byte) (s : State) : (busWrite b v s).mirroring = s.mirroring :=
  busWrite_unchanged (·.mirroring) b v s (fun _ _ => rfl) (fun _ _ => rfl) (fun _ _ _ => rfl)

@[simp] theorem busWrite_flag (b : Word) (v : Byte) (s : State) (g : Flag) : (busWrite b v s).flag g = s.flag g :=
  busWrite_unchanged (·.flag g) b v s (fun _ _ => rfl) (fun _ _ => rfl) (fun _ _ _ => rfl)

/-- Away from the ROM window a write records no fault. -/
theorem busWrite_fault_ok {a : Word} (v : Byte) (s : State) (h : inRom a = false) :
    (busWrite a v s).fault = s.fault := by
  rcases busWrite_state a v s with ⟨_, e⟩ | ⟨_, ho, _⟩ | ⟨_, _, _, _, e⟩
  · rw [e]; rfl
  · rw [h] at ho; cases ho
  · rw [e]

/-- What stands at an address after a write: the byte written at every address of the RAM cell written, and what
stood there before everywhere else (R82). -/
theorem peek_busWrite (a b : Word) (v : Byte) (s : State) :
    peek (busWrite a v s) b =
      if inRam a = true ∧ inRam b = true ∧ ramIndex b = ramIndex a then v else peek s b := by
  rcases busWrite_state a v s with ⟨hr, e⟩ | ⟨hr, _, e⟩ | ⟨hr, _, _, _, e⟩
  · rw [e]
    by_cases hb : inRam b = true
    · simp only [peek_ram _ hb, State.setRam_ram, Memory.read_write, hr, hb, true_and]
    · have hb' : inRam b = false := by simpa using hb
      simp only [hb', Bool.false_eq_true, false_and, and_false, if_false]
      unfold peek
      have hn : ∀ i, readTarget b ≠ .ram i := by
        intro i
        unfold readTarget
        simp only [hb', Bool.false_eq_true, if_false]
        split_ifs <;> simp
      cases h : readTarget b with
      | ram i => exact absurd h (hn i)
      | controller => rfl
      | video r => rfl
      | rom => rfl
      | zero => rfl
  · rw [e, if_neg (by simp [hr])]
    exact peek_congr rfl rfl rfl b
  · rw [e, if_neg (by simp [hr])]
    exact peek_congr rfl rfl rfl b

/-! ### Vectors -/

theorem inRom_vector (k : IrqKind) : inRom k.vector = true ∧ inRom (k.vector + 1) = true := by
  cases k <;> decide

/-- A vector read reads the program ROM and has no effect (R92). -/
theorem busRead16_rom {a : Word} (s : State) (h : inRom a = true) (h' : inRom (a + 1) = true) :
    busRead16 a s =
      (word16 (s.prg.read (romOffset s.bank (a + 1))) (s.prg.read (romOffset s.bank a)), s) := by
  simp only [busRead16, busRead_rom _ h, busRead_rom _ h']

/-- What an interrupt entry comes to (R412): three bytes pushed, I set, the charge, PC from the vector, the
marker; nothing else. -/
theorem deliver_eq (k : IrqKind) (s : State) :
    deliver k s =
      (((charge k.cost ((push8 (exportP s.p) (push16 s.pc s)).setFlag .i true)).setPc
        (word16 (s.prg.read (romOffset s.bank (k.vector + 1))) (s.prg.read (romOffset s.bank k.vector)))).setPending
          (some k)) := by
  simp only [deliver, busRead16_rom _ (inRom_vector k).1 (inRom_vector k).2, push16_eq, push8_eq]
  rfl

end Sys2Proof.Machine
end

