-- ==== Sys2Proof/Laws/Shapes.lean ====
section
/-! SUPPORT. What resolving, loading and storing an operand can do, and what an instruction of each shape comes
to. -/

namespace Sys2Proof.Machine

set_option Elab.async false

theorem inRam_zeroPage (b : Byte) : inRam (zeroPage b) = true := by
  revert b; decide +kernel

@[simp] theorem ramIndex_zeroPage (b : Byte) : ramIndex (zeroPage b) = b.toNat := by
  revert b; decide +kernel

/-- A pointer read in page 0 reads two cells of RAM and has no effect (R137, R138). -/
theorem zeroPagePointer_eq (z : Byte) (s : State) :
    zeroPagePointer z s = (word16 (s.ram.read (z + 1).toNat) (s.ram.read z.toNat), s) := by
  simp only [zeroPagePointer, busRead_ram _ (inRam_zeroPage z), busRead_ram _ (inRam_zeroPage (z + 1)),
    ramIndex_zeroPage]

/-- Resolving an operand of any mode but IND has no effect. -/
theorem resolve_state {o : Operand} (s : State) (h : o.mode ≠ .ind) : (resolve o s).state = s := by
  cases o <;> first
    | rfl
    | exact absurd rfl h
    | simp only [resolve, zeroPagePointer_eq]

/-- Resolving any operand changes nothing of the state but the count of answers and the history. -/
theorem resolve_effect (o : Operand) (s : State) :
    ∃ d e, (resolve o s).state = { s with draws := d, events := e } := by
  by_cases h : o.mode = .ind
  · cases o <;> first
      | (simp only [Operand.mode, reduceCtorEq] at h; done)
      | skip
    rename_i ptr
    obtain ⟨d, e, h1⟩ := busRead_state ptr s
    obtain ⟨d', e', h2⟩ := busRead_state (sameNextInPage ptr) (busRead ptr s).2
    exact ⟨d', e', by show (busRead (sameNextInPage ptr) (busRead ptr s).2).2 = _; rw [h2, h1]⟩
  · exact ⟨s.draws, s.events, resolve_state s h⟩

/-- Loading an operand changes nothing of the state but the count of answers and the history. -/
theorem load_effect (o : Operand) (ea : Word) (s : State) :
    ∃ d e, (load o ea s).2 = { s with draws := d, events := e } := by
  cases o <;> first
    | exact ⟨s.draws, s.events, rfl⟩
    | exact busRead_state ea s

/-- The accesses that resolve and read an operand change nothing of the state but the count of answers and the
history. -/
theorem operandState_effect (o : Operand) (s : State) :
    ∃ d e, operandState o s = { s with draws := d, events := e } := by
  obtain ⟨d, e, h⟩ := resolve_effect o s
  obtain ⟨d', e', h'⟩ := load_effect o (resolve o s).ea (resolve o s).state
  exact ⟨d', e', by rw [operandState, h', h]⟩

theorem operandState_unchanged {α : Type} (f : State → α) (o : Operand) (s : State)
    (hf : ∀ (t : State) d e, f { t with draws := d, events := e } = f t) : f (operandState o s) = f s := by
  obtain ⟨d, e, h⟩ := operandState_effect o s
  rw [h, hf]

@[simp] theorem operandState_a (o : Operand) (s : State) : (operandState o s).a = s.a :=
  operandState_unchanged (·.a) o s (fun _ _ _ => rfl)
@[simp] theorem operandState_x (o : Operand) (s : State) : (operandState o s).x = s.x :=
  operandState_unchanged (·.x) o s (fun _ _ _ => rfl)
@[simp] theorem operandState_y (o : Operand) (s : State) : (operandState o s).y = s.y :=
  operandState_unchanged (·.y) o s (fun _ _ _ => rfl)
@[simp] theorem operandState_sp (o : Operand) (s : State) : (operandState o s).sp = s.sp :=
  operandState_unchanged (·.sp) o s (fun _ _ _ => rfl)
@[simp] theorem operandState_p (o : Operand) (s : State) : (operandState o s).p = s.p :=
  operandState_unchanged (·.p) o s (fun _ _ _ => rfl)
@[simp] theorem operandState_pc (o : Operand) (s : State) : (operandState o s).pc = s.pc :=
  operandState_unchanged (·.pc) o s (fun _ _ _ => rfl)
@[simp] theorem operandState_cycles (o : Operand) (s : State) : (operandState o s).cycles = s.cycles :=
  operandState_unchanged (·.cycles) o s (fun _ _ _ => rfl)
@[simp] theorem operandState_pending (o : Operand) (s : State) : (operandState o s).pending = s.pending :=
  operandState_unchanged (·.pending) o s (fun _ _ _ => rfl)
@[simp] theorem operandState_fault (o : Operand) (s : State) : (operandState o s).fault = s.fault :=
  operandState_unchanged (·.fault) o s (fun _ _ _ => rfl)
@[simp] theorem operandState_stopped (o : Operand) (s : State) : (operandState o s).stopped = s.stopped :=
  operandState_unchanged (·.stopped) o s (fun _ _ _ => rfl)
@[simp] theorem operandState_ram (o : Operand) (s : State) : (operandState o s).ram = s.ram :=
  operandState_unchanged (·.ram) o s (fun _ _ _ => rfl)
@[simp] theorem operandState_prg (o : Operand) (s : State) : (operandState o s).prg = s.prg :=
  operandState_unchanged (·.prg) o s (fun _ _ _ => rfl)
@[simp] theorem operandState_bank (o : Operand) (s : State) : (operandState o s).bank = s.bank :=
  operandState_unchanged (·.bank) o s (fun _ _ _ => rfl)
@[simp] theorem operandState_chr (o : Operand) (s : State) : (operandState o s).chr = s.chr :=
  operandState_unchanged (·.chr) o s (fun _ _ _ => rfl)
@[simp] theorem operandState_mirroring (o : Operand) (s : State) : (operandState o s).mirroring = s.mirroring :=
  operandState_unchanged (·.mirroring) o s (fun _ _ _ => rfl)

@[simp] theorem operandState_flag (o : Operand) (s : State) (g : Flag) : (operandState o s).flag g = s.flag g :=
  operandState_unchanged (·.flag g) o s (fun _ _ _ => rfl)

/-- The byte an operand of a memory mode reads as, and the state after, are those of one bus read at the resolved
address. -/
theorem operand_bus {o : Operand} (s : State) (h1 : o ≠ .acc) (h2 : ∀ b, o ≠ .imm b) :
    (operandValue o s, operandState o s) = busRead (effectiveAddress o s) (resolve o s).state := by
  cases o <;> first
    | exact absurd rfl h1
    | exact absurd rfl (h2 _)
    | rfl

/-- A store to a memory mode is a bus write at the resolved address; the modes ACC and IMM are left out. -/
theorem storeThen_memory {o : Operand} (ea : Word) (v : Byte) (k : State → State) (s : State) (h : o ≠ .acc) :
    storeThen o ea v k s = writeThen ea v k s := by
  cases o <;> first
    | exact absurd rfl h
    | rfl

theorem storeThen_acc (ea : Word) (v : Byte) (k : State → State) (s : State) :
    storeThen .acc ea v k s = k (s.setA v) := rfl

/-! ### The shapes -/

/-- An instruction that reads its operand. -/
theorem readInstr_eq (i : Instr) (o : Operand) (f : Byte → State → State) (s : State) :
    readInstr i o f s = account i (pageCrossed o s) 0 (f (operandValue o s) (operandState o s)) := rfl

/-- An instruction that stores, away from the ROM window. -/
theorem writeInstr_ok {i : Instr} {o : Operand} (v : Byte) (s : State) (ho : o ≠ .acc) (hm : o.mode ≠ .ind)
    (h : inRom (effectiveAddress o s) = false) :
    writeInstr i o v s = account i (pageCrossed o s) 0 (busWrite (effectiveAddress o s) v s) := by
  simp only [writeInstr, storeThen_memory _ _ _ _ ho, resolve_state s hm]
  exact writeThen_ok v _ s h

/-- An instruction that stores into the ROM window records the fault and does nothing else (R402, R403). -/
theorem writeInstr_fault {i : Instr} {o : Operand} (v : Byte) (s : State) (ho : o ≠ .acc) (hm : o.mode ≠ .ind)
    (h : inRom (effectiveAddress o s) = true) :
    writeInstr i o v s = s.raise (.illegalRomWrite (effectiveAddress o s) v) := by
  simp only [writeInstr, storeThen_memory _ _ _ _ ho, resolve_state s hm]
  exact writeThen_fault v _ s h

/-- A read-modify-write instruction on memory, away from the ROM window. -/
theorem modifyInstr_ok {i : Instr} {o : Operand} {f : Byte → State → Byte} {g : Byte → Byte → State → State}
    (s : State) (ho : o ≠ .acc) (h : inRom (effectiveAddress o s) = false) :
    modifyInstr i o f g s =
      account i (pageCrossed o s) 0
        (g (operandValue o s) (f (operandValue o s) (operandState o s))
          (busWrite (effectiveAddress o s) (f (operandValue o s) (operandState o s)) (operandState o s))) := by
  simp only [modifyInstr, storeThen_memory _ _ _ _ ho]
  exact writeThen_ok _ _ _ h

/-- A read-modify-write instruction on the ROM window records the fault after its read, and does nothing else. -/
theorem modifyInstr_fault {i : Instr} {o : Operand} {f : Byte → State → Byte} {g : Byte → Byte → State → State}
    (s : State) (ho : o ≠ .acc) (h : inRom (effectiveAddress o s) = true) :
    modifyInstr i o f g s =
      (operandState o s).raise
        (.illegalRomWrite (effectiveAddress o s) (f (operandValue o s) (operandState o s))) := by
  simp only [modifyInstr, storeThen_memory _ _ _ _ ho]
  exact writeThen_fault _ _ _ h

/-- A read-modify-write instruction on the accumulator. -/
theorem modifyInstr_acc (i : Instr) (f : Byte → State → Byte) (g : Byte → Byte → State → State) (s : State) :
    modifyInstr i .acc f g s = account i false 0 (g s.a (f s.a s) (s.setA (f s.a s))) := rfl

/-! ### The step -/

/-- Every instruction's meaning answers a next state: none refuses, and a fault is recorded in the state. -/
theorem exec_answers_next (i : Instr) (s : State) : ∃ t, exec i s = .next t := by
  cases i <;> exact ⟨_, rfl⟩

/-- A step that answers a next state started with no fault recorded, and is the fetched instruction's meaning. -/
theorem step_cases {s t : State} (h : step s = .next t) :
    s.fault = none ∧ exec (fetch s).1 (fetch s).2 = .next t := by
  unfold step at h
  split at h
  · cases h
  · rename_i hf; exact ⟨hf, h⟩

end Sys2Proof.Machine
end

