-- ==== Sys2Proof/Laws/Ran.lean ====
section
/-! SUPPORT. Said once: what any instruction, and any step, can do to the state: accesses and register writes, and
then either one charge or one recorded fault. -/

namespace Sys2Proof.Machine

set_option Elab.async false

/-- What the accesses and register writes of a step can do: the cartridge, the pending marker, the fault record and
the cycle counter stay; RAM keeps its canonical form and bit U its 1; the history grows by events that are no ticks;
answers are only used up. -/
structure Accesses (s t : State) : Prop where
  prg : t.prg = s.prg
  bank : t.bank = s.bank
  chr : t.chr = s.chr
  mirroring : t.mirroring = s.mirroring
  pending : t.pending = s.pending
  fault : t.fault = s.fault
  cycles : t.cycles = s.cycles
  ram : s.ram.wf Config.ramSize = true → t.ram.wf Config.ramSize = true
  unused : s.unused = true → t.unused = true
  history : ∃ es, t.events = es ++ s.events ∧ noTick es = true
  draws : s.draws ≤ t.draws

theorem noTick_append (es fs : List Event) : noTick (es ++ fs) = (noTick es && noTick fs) := List.all_append

theorem Accesses.refl (s : State) : Accesses s s :=
  ⟨rfl, rfl, rfl, rfl, rfl, rfl, rfl, id, id, ⟨[], rfl, rfl⟩, Nat.le_refl _⟩

theorem Accesses.trans {s t u : State} (h : Accesses s t) (k : Accesses t u) : Accesses s u where
  prg := k.prg.trans h.prg
  bank := k.bank.trans h.bank
  chr := k.chr.trans h.chr
  mirroring := k.mirroring.trans h.mirroring
  pending := k.pending.trans h.pending
  fault := k.fault.trans h.fault
  cycles := k.cycles.trans h.cycles
  ram := fun w => k.ram (h.ram w)
  unused := fun w => k.unused (h.unused w)
  history := by
    obtain ⟨es, he, hn⟩ := h.history
    obtain ⟨fs, hf, hm⟩ := k.history
    exact ⟨fs ++ es, by rw [hf, he, List.append_assoc], by rw [noTick_append, hn, hm]; rfl⟩
  draws := h.draws.trans k.draws

/-- A move that touches only A, X, Y, SP, PC and the stop signal. -/
theorem Accesses.of_registers {s t : State} (hp : t.p = s.p) (hc : t.cycles = s.cycles) (he : t.events = s.events)
    (hd : t.draws = s.draws) (hr : t.ram = s.ram) (hg : t.prg = s.prg) (hb : t.bank = s.bank) (hh : t.chr = s.chr)
    (hm : t.mirroring = s.mirroring) (hn : t.pending = s.pending) (hf : t.fault = s.fault) : Accesses s t :=
  ⟨hg, hb, hh, hm, hn, hf, hc, fun w => by rw [hr]; exact w, fun w => by rw [unused_eq_of_p hp]; exact w,
    ⟨[], he, rfl⟩, by rw [hd]⟩

/-- A write of P that keeps bit U. -/
theorem Accesses.setP {v : Byte} {s : State} (h : s.unused = true → v.getLsbD unusedBit = true) :
    Accesses s (s.setP v) :=
  ⟨rfl, rfl, rfl, rfl, rfl, rfl, rfl, id, h, ⟨[], rfl, rfl⟩, Nat.le_refl _⟩

theorem Accesses.setFlag (f : Flag) (v : Bool) (s : State) : Accesses s (s.setFlag f v) :=
  Accesses.setP (fun h => by rw [withFlag_unused]; exact h)

theorem Accesses.setNZ (v : Byte) (s : State) : Accesses s (s.setNZ v) :=
  Accesses.setP (fun h => by rw [withNZ_unused]; exact h)

theorem Accesses.compare (r v : Byte) (s : State) : Accesses s (s.compare r v) :=
  Accesses.setP (fun h => by rw [compareFlags_unused]; exact h)

theorem Accesses.setA (v : Byte) (s : State) : Accesses s (s.setA v) :=
  Accesses.of_registers rfl rfl rfl rfl rfl rfl rfl rfl rfl rfl rfl

theorem Accesses.setX (v : Byte) (s : State) : Accesses s (s.setX v) :=
  Accesses.of_registers rfl rfl rfl rfl rfl rfl rfl rfl rfl rfl rfl

theorem Accesses.setY (v : Byte) (s : State) : Accesses s (s.setY v) :=
  Accesses.of_registers rfl rfl rfl rfl rfl rfl rfl rfl rfl rfl rfl

theorem Accesses.setSp (v : Byte) (s : State) : Accesses s (s.setSp v) :=
  Accesses.of_registers rfl rfl rfl rfl rfl rfl rfl rfl rfl rfl rfl

theorem Accesses.setPc (v : Word) (s : State) : Accesses s (s.setPc v) :=
  Accesses.of_registers rfl rfl rfl rfl rfl rfl rfl rfl rfl rfl rfl

theorem Accesses.setStopped (v : Bool) (s : State) : Accesses s (s.setStopped v) :=
  Accesses.of_registers rfl rfl rfl rfl rfl rfl rfl rfl rfl rfl rfl

theorem Accesses.loadA (v : Byte) (s : State) : Accesses s (s.loadA v) := (Accesses.setA v s).trans (Accesses.setNZ v _)

theorem Accesses.loadX (v : Byte) (s : State) : Accesses s (s.loadX v) := (Accesses.setX v s).trans (Accesses.setNZ v _)

theorem Accesses.loadY (v : Byte) (s : State) : Accesses s (s.loadY v) := (Accesses.setY v s).trans (Accesses.setNZ v _)

theorem Accesses.addWithCarry (b : Byte) (s : State) : Accesses s (s.addWithCarry b) :=
  (((Accesses.setFlag .c _ s).trans (Accesses.setFlag .v _ _)).trans (Accesses.setA _ _)).trans (Accesses.setNZ _ _)

/-- An event other than a tick. -/
theorem Accesses.record {e : Event} (s : State) (h : noTick [e] = true) : Accesses s (s.record e) :=
  ⟨rfl, rfl, rfl, rfl, rfl, rfl, rfl, id, id, ⟨[e], rfl, h⟩, Nat.le_refl _⟩

theorem Accesses.drawn (s : State) : Accesses s s.drawn :=
  ⟨rfl, rfl, rfl, rfl, rfl, rfl, rfl, id, id, ⟨[], rfl, rfl⟩, Nat.le_succ _⟩

theorem Accesses.busRead (a : Word) (s : State) : Accesses s (busRead a s).2 := by
  unfold Machine.busRead
  cases readTarget a with
  | ram i => exact Accesses.refl s
  | rom => exact Accesses.refl s
  | zero => exact Accesses.refl s
  | controller => exact (Accesses.drawn s).trans (Accesses.record _ rfl)
  | video r => exact (Accesses.drawn s).trans (Accesses.record _ rfl)

theorem Accesses.forwardBytes (n : Nat) (a : Word) (s : State) : Accesses s (forwardBytes n a s) := by
  induction n generalizing a s with
  | zero => exact Accesses.refl s
  | succ n ih => exact ((Accesses.busRead a s).trans (Accesses.record _ rfl)).trans (ih _ _)

theorem Accesses.setRam {i : Nat} (v : Byte) (s : State) (h : i < Config.ramSize) :
    Accesses s (s.setRam (s.ram.write i v)) :=
  ⟨rfl, rfl, rfl, rfl, rfl, rfl, rfl, Memory.wf_write v h, id, ⟨[], rfl, rfl⟩, Nat.le_refl _⟩

/-- A write away from the ROM window. -/
theorem Accesses.busWrite {a : Word} (v : Byte) (s : State) (ha : inRom a = false) :
    Accesses s (busWrite a v s) := by
  unfold Machine.busWrite
  cases h : writeTarget a with
  | ram i =>
    refine Accesses.setRam v s ?_
    have hi : i = ramIndex a := by
      unfold writeTarget at h
      split_ifs at h
      cases h; rfl
    rw [hi]; exact ramIndex_lt a
  | controller => exact Accesses.record s rfl
  | video r => exact Accesses.record s rfl
  | oamDma => exact Accesses.forwardBytes 256 _ s
  | rom =>
    unfold writeTarget at h
    simp only [ha] at h
    split_ifs at h
    contradiction
  | dropped => exact Accesses.refl s

theorem Accesses.push8 (v : Byte) (s : State) : Accesses s (push8 v s) :=
  (Accesses.busWrite v s (inRom_stackAddr _)).trans (Accesses.setSp _ _)

theorem Accesses.push16 (w : Word) (s : State) : Accesses s (push16 w s) :=
  (Accesses.push8 _ s).trans (Accesses.push8 _ _)

theorem Accesses.pop8 (s : State) : Accesses s (pop8 s).2 := (Accesses.setSp _ s).trans (Accesses.busRead _ _)

theorem Accesses.pop16 (s : State) : Accesses s (pop16 s).2 := (Accesses.pop8 s).trans (Accesses.pop8 _)

theorem Accesses.resolve (o : Operand) (s : State) : Accesses s (resolve o s).state := by
  by_cases h : o.mode = .ind
  · cases o <;> first
      | (simp only [Operand.mode, reduceCtorEq] at h; done)
      | skip
    exact (Accesses.busRead _ s).trans (Accesses.busRead _ _)
  · rw [resolve_state s h]; exact Accesses.refl s

theorem Accesses.load (o : Operand) (ea : Word) (s : State) : Accesses s (load o ea s).2 := by
  cases o <;> first
    | exact Accesses.refl s
    | exact Accesses.busRead ea s

theorem Accesses.operandState (o : Operand) (s : State) : Accesses s (operandState o s) :=
  (Accesses.resolve o s).trans (Accesses.load o _ _)

theorem Accesses.returnFromInterrupt (s : State) : Accesses s (returnFromInterrupt s) :=
  (((Accesses.pop8 s).trans (Accesses.setP (fun _ => importP_unused _))).trans (Accesses.pop16 _)).trans
    (Accesses.setPc _ _)

/-- How an instruction ends: one charge, after its accesses (R114); or the fault of a write into the ROM window,
after accesses that changed no register and no memory, and no charge (R403); or the fault of an opcode behind the
unimplemented marker (R401). -/
inductive Ran (i : Instr) (s t : State) : Prop where
  | charged (u : State) (n : Nat) (h : Accesses s u) (e : t = charge n u)
  | faulted (d : Nat) (es : List Event) (a : Word) (v : Byte) (h : Accesses s { s with draws := d, events := es })
      (ha : inRom a = true) (e : t = State.raise (.illegalRomWrite a v) { s with draws := d, events := es })
  | marked (op : Byte) (h : i.implemented = false) (e : t = raiseUnimplemented op s)

theorem Ran.account {j : Instr} {s u : State} (i : Instr) (k : Bool) (n : Nat) (h : Accesses s u) :
    Ran j s (account i k n u) := .charged u _ h rfl

theorem Ran.writeThen {j : Instr} {s u : State} {a : Word} {v : Byte} {k : State → State} (h : Accesses s u)
    (hu : ∃ d es, u = { s with draws := d, events := es }) (hk : ∀ w, Accesses s w → Ran j s (k w)) :
    Ran j s (writeThen a v k u) := by
  cases ha : inRom a with
  | false => rw [writeThen_ok _ _ _ ha]; exact hk _ (h.trans (Accesses.busWrite v u ha))
  | true =>
    obtain ⟨d, es, rfl⟩ := hu
    rw [writeThen_fault _ _ _ ha]
    exact .faulted d es a v h ha rfl

theorem Ran.storeThen {j : Instr} {s u : State} {o : Operand} {ea : Word} {v : Byte} {k : State → State}
    (h : Accesses s u) (hu : ∃ d es, u = { s with draws := d, events := es })
    (hk : ∀ w, Accesses s w → Ran j s (k w)) : Ran j s (storeThen o ea v k u) := by
  cases o <;> first
    | exact hk _ (h.trans (Accesses.setA v u))
    | exact Ran.writeThen h hu hk

theorem Ran.readInstr {j i : Instr} {o : Operand} {f : Byte → State → State} (s : State)
    (hf : ∀ v t, Accesses t (f v t)) : Ran j s (readInstr i o f s) :=
  Ran.account _ _ _ ((Accesses.operandState o s).trans (hf _ _))

theorem Ran.writeInstr {j : Instr} (i : Instr) (o : Operand) (v : Byte) (s : State) : Ran j s (writeInstr i o v s) :=
  Ran.storeThen (Accesses.resolve o s) (resolve_effect o s) (fun _ h => Ran.account _ _ _ h)

theorem Ran.modifyInstr {j i : Instr} {o : Operand} {f : Byte → State → Byte} {g : Byte → Byte → State → State}
    (s : State) (hg : ∀ v r t, Accesses t (g v r t)) : Ran j s (modifyInstr i o f g s) := by
  unfold Machine.modifyInstr
  exact Ran.storeThen (Accesses.operandState o s) (operandState_effect o s) (fun _ h => Ran.account _ _ _ (h.trans (hg _ _ _)))

theorem Ran.branchInstr {j : Instr} (i : Instr) (offset : Byte) (cond : Bool) (s : State) :
    Ran j s (branchInstr i offset cond s) := by
  unfold Machine.branchInstr
  split
  · exact Ran.account _ _ _ (Accesses.setPc _ s)
  · exact Ran.account _ _ _ (Accesses.refl s)

theorem Ran.plainInstr {j i : Instr} {f : State → State} (s : State) (hf : Accesses s (f s)) :
    Ran j s (plainInstr i f s) := Ran.account _ _ _ hf

/-- What any instruction can do. -/
theorem exec_ran {i : Instr} {s t : State} (h : exec i s = .next t) : Ran i s t := by
  cases i with
  | lda o => cases h; exact Ran.readInstr s (fun _ u => Accesses.loadA _ u)
  | ldx o => cases h; exact Ran.readInstr s (fun _ u => Accesses.loadX _ u)
  | ldy o => cases h; exact Ran.readInstr s (fun _ u => Accesses.loadY _ u)
  | sta o => cases h; exact Ran.writeInstr _ o _ s
  | stx o => cases h; exact Ran.writeInstr _ o _ s
  | sty o => cases h; exact Ran.writeInstr _ o _ s
  | tax => cases h; exact Ran.plainInstr s (Accesses.loadX _ s)
  | tay => cases h; exact Ran.plainInstr s (Accesses.loadY _ s)
  | txa => cases h; exact Ran.plainInstr s (Accesses.loadA _ s)
  | tya => cases h; exact Ran.plainInstr s (Accesses.loadA _ s)
  | tsx => cases h; exact Ran.plainInstr s (Accesses.loadX _ s)
  | txs => cases h; exact Ran.plainInstr s (Accesses.setSp _ s)
  | pha => cases h; exact Ran.plainInstr s (Accesses.push8 _ s)
  | php => cases h; exact Ran.plainInstr s (Accesses.push8 _ s)
  | pla => cases h; exact Ran.plainInstr s ((Accesses.pop8 s).trans (Accesses.loadA _ _))
  | plp => cases h; exact Ran.plainInstr s ((Accesses.pop8 s).trans (Accesses.setP (fun _ => importP_unused _)))
  | adc o => cases h; exact Ran.readInstr s (fun _ u => Accesses.addWithCarry _ u)
  | sbc o => cases h; exact Ran.readInstr s (fun _ u => Accesses.addWithCarry _ u)
  | cmp o => cases h; exact Ran.readInstr s (fun _ u => Accesses.compare _ _ u)
  | cpx o => cases h; exact Ran.readInstr s (fun _ u => Accesses.compare _ _ u)
  | cpy o => cases h; exact Ran.readInstr s (fun _ u => Accesses.compare _ _ u)
  | inc o => cases h; exact Ran.modifyInstr s (fun _ _ u => Accesses.setNZ _ u)
  | dec o => cases h; exact Ran.modifyInstr s (fun _ _ u => Accesses.setNZ _ u)
  | inx => cases h; exact Ran.plainInstr s (Accesses.loadX _ s)
  | iny => cases h; exact Ran.plainInstr s (Accesses.loadY _ s)
  | dex => cases h; exact Ran.plainInstr s (Accesses.loadX _ s)
  | dey => cases h; exact Ran.plainInstr s (Accesses.loadY _ s)
  | and o => cases h; exact Ran.readInstr s (fun _ u => Accesses.loadA _ u)
  | ora o => cases h; exact Ran.readInstr s (fun _ u => Accesses.loadA _ u)
  | eor o => cases h; exact Ran.readInstr s (fun _ u => Accesses.loadA _ u)
  | bit o =>
    cases h
    exact Ran.readInstr s (fun _ u => ((Accesses.setFlag _ _ u).trans (Accesses.setFlag _ _ _)).trans (Accesses.setFlag _ _ _))
  | asl o => cases h; exact Ran.modifyInstr s (fun _ _ u => (Accesses.setFlag _ _ u).trans (Accesses.setNZ _ _))
  | lsr o => cases h; exact Ran.modifyInstr s (fun _ _ u => (Accesses.setFlag _ _ u).trans (Accesses.setNZ _ _))
  | rol o => cases h; exact Ran.modifyInstr s (fun _ _ u => (Accesses.setFlag _ _ u).trans (Accesses.setNZ _ _))
  | ror o => cases h; exact Ran.modifyInstr s (fun _ _ u => (Accesses.setFlag _ _ u).trans (Accesses.setNZ _ _))
  | jmpAbs _ => cases h; exact Ran.account _ _ _ (Accesses.setPc _ s)
  | jmpInd _ => cases h; exact Ran.account _ _ _ ((Accesses.resolve _ s).trans (Accesses.setPc _ _))
  | jsr _ => cases h; exact Ran.account _ _ _ ((Accesses.push16 _ s).trans (Accesses.setPc _ _))
  | rts => cases h; exact Ran.plainInstr s ((Accesses.pop16 s).trans (Accesses.setPc _ _))
  | rti => obtain rfl := Host.Outcome.next.inj h; exact Ran.plainInstr s (Accesses.returnFromInterrupt s)
  | bpl _ => cases h; exact Ran.branchInstr _ _ _ s
  | bmi _ => cases h; exact Ran.branchInstr _ _ _ s
  | bvc _ => cases h; exact Ran.branchInstr _ _ _ s
  | bvs _ => cases h; exact Ran.branchInstr _ _ _ s
  | bcc _ => cases h; exact Ran.branchInstr _ _ _ s
  | bcs _ => cases h; exact Ran.branchInstr _ _ _ s
  | bne _ => cases h; exact Ran.branchInstr _ _ _ s
  | beq _ => cases h; exact Ran.branchInstr _ _ _ s
  | brk => cases h; exact Ran.plainInstr s ((Accesses.setFlag _ _ s).trans (Accesses.setStopped _ _))
  | nop => cases h; exact Ran.plainInstr s (Accesses.refl s)
  | clc => cases h; exact Ran.plainInstr s (Accesses.setFlag _ _ s)
  | sec => cases h; exact Ran.plainInstr s (Accesses.setFlag _ _ s)
  | cli => cases h; exact Ran.plainInstr s (Accesses.setFlag _ _ s)
  | sei => cases h; exact Ran.plainInstr s (Accesses.setFlag _ _ s)
  | clv => cases h; exact Ran.plainInstr s (Accesses.setFlag _ _ s)
  | cld => cases h; exact Ran.plainInstr s (Accesses.setFlag _ _ s)
  | sed => cases h; exact Ran.plainInstr s (Accesses.setFlag _ _ s)
  | nopImp _ => cases h; exact Ran.plainInstr s (Accesses.refl s)
  | nopImm _ _ => cases h; exact Ran.plainInstr s (Accesses.refl s)
  | nopMem _ o => cases h; exact Ran.readInstr s (fun _ u => Accesses.refl u)
  | slo o => cases h; exact Ran.modifyInstr s (fun _ _ u => (Accesses.setFlag _ _ u).trans (Accesses.loadA _ _))
  | rla o => cases h; exact Ran.modifyInstr s (fun _ _ u => (Accesses.setFlag _ _ u).trans (Accesses.loadA _ _))
  | sre o => cases h; exact Ran.modifyInstr s (fun _ _ u => (Accesses.setFlag _ _ u).trans (Accesses.loadA _ _))
  | rra o =>
    cases h
    exact Ran.modifyInstr s (fun _ _ u => (Accesses.setFlag _ _ u).trans (Accesses.addWithCarry _ _))
  | sax o => cases h; exact Ran.writeInstr _ o _ s
  | lax o => cases h; exact Ran.readInstr s (fun _ u => (Accesses.setX _ u).trans (Accesses.loadA _ _))
  | dcp o => cases h; exact Ran.modifyInstr s (fun _ _ u => Accesses.compare _ _ u)
  | isb o => cases h; exact Ran.modifyInstr s (fun _ _ u => Accesses.addWithCarry _ u)
  | anc _ _ => cases h; exact Ran.readInstr s (fun _ u => (Accesses.loadA _ u).trans (Accesses.setFlag _ _ _))
  | alr _ => cases h; exact Ran.readInstr s (fun _ u => (Accesses.setFlag _ _ u).trans (Accesses.loadA _ _))
  | arr _ =>
    cases h
    exact Ran.readInstr s (fun _ u => ((Accesses.loadA _ u).trans (Accesses.setFlag _ _ _)).trans (Accesses.setFlag _ _ _))
  | axs _ => cases h; exact Ran.readInstr s (fun _ u => (Accesses.setFlag _ _ u).trans (Accesses.loadX _ _))
  | sbcEB _ => cases h; exact Ran.readInstr s (fun _ u => Accesses.addWithCarry _ u)
  | las _ =>
    cases h
    exact Ran.readInstr s (fun _ u => ((Accesses.setSp _ u).trans (Accesses.setX _ _)).trans (Accesses.loadA _ _))
  | xaa _ => cases h; exact .marked _ rfl rfl
  | lxa _ => cases h; exact .marked _ rfl rfl
  | ahx o => cases h; exact .marked _ (by cases o <;> rfl) rfl
  | tas _ => cases h; exact .marked _ rfl rfl
  | shy _ => cases h; exact .marked _ rfl rfl
  | shx _ => cases h; exact .marked _ rfl rfl
  | jam op =>
    cases h
    refine .marked op ?_ rfl
    by_cases hop : op ∈ jamOpcodes
    · simp only [Instr.implemented, Instr.opcode, if_pos hop]
      revert op
      decide +kernel
    · simp only [Instr.implemented, Instr.opcode, if_neg hop]

theorem Accesses.operandByte (d : Descriptor) (k : Nat) (a : Word) (s : State) :
    Accesses s (operandByte d k a s).2 := by
  unfold Machine.operandByte
  split_ifs
  · exact Accesses.busRead a s
  · exact Accesses.refl s
  · exact Accesses.refl s

/-- What the fetch can do. -/
theorem Accesses.fetch (s : State) : Accesses s (fetch s).2 :=
  ((((Accesses.setStopped false s).trans (Accesses.busRead _ _)).trans (Accesses.operandByte _ _ _ _)).trans
    (Accesses.operandByte _ _ _ _)).trans (Accesses.setPc _ _)

/-- What any step can do: the fetch's accesses, and then what the instruction fetched can do. -/
theorem step_ran {s t : State} (h : step s = .next t) :
    s.fault = none ∧ Accesses s (fetch s).2 ∧ Ran (fetch s).1 (fetch s).2 t :=
  ⟨(step_cases h).1, Accesses.fetch s, exec_ran (step_cases h).2⟩

end Sys2Proof.Machine
end

