-- ==== Sys2Proof/Laws/Outcomes.lean ====
section
/-! SUPPORT. How the outcome of an instruction of each shape follows from what its effect changes. -/

namespace Sys2Proof.Machine

/-- An effect on registers and flags alone: only those of `regs` and `flags` change. -/
structure Only (regs : List Reg) (flags : List Flag) (s t : State) : Prop where
  frame : Frame regs flags s t
  unused : t.unused = s.unused
  pc : t.pc = s.pc
  ram : t.ram = s.ram
  prg : t.prg = s.prg
  cycles : t.cycles = s.cycles
  events : t.events = s.events
  draws : t.draws = s.draws

theorem Frame.refl (regs : List Reg) (flags : List Flag) (s : State) : Frame regs flags s s :=
  ⟨fun _ _ => rfl, fun _ _ => rfl, rfl, rfl, rfl, rfl, rfl, rfl⟩

theorem Frame.trans {regs : List Reg} {flags : List Flag} {s t u : State} (h : Frame regs flags s t)
    (k : Frame regs flags t u) : Frame regs flags s u :=
  ⟨fun r m => (k.reg r m).trans (h.reg r m), fun f m => (k.flag f m).trans (h.flag f m),
    k.pending.trans h.pending, k.fault.trans h.fault, k.stopped.trans h.stopped, k.bank.trans h.bank,
    k.chr.trans h.chr, k.mirroring.trans h.mirroring⟩

theorem Frame.mono {regs regs' : List Reg} {flags flags' : List Flag} {s t : State} (h : Frame regs flags s t)
    (hr : ∀ r ∈ regs, r ∈ regs') (hf : ∀ f ∈ flags, f ∈ flags') : Frame regs' flags' s t :=
  ⟨fun r m => h.reg r (fun n => m (hr r n)), fun f m => h.flag f (fun n => m (hf f n)), h.pending, h.fault,
    h.stopped, h.bank, h.chr, h.mirroring⟩

theorem Only.refl (regs : List Reg) (flags : List Flag) (s : State) : Only regs flags s s :=
  ⟨Frame.refl _ _ s, rfl, rfl, rfl, rfl, rfl, rfl, rfl⟩

theorem Only.mono {regs regs' : List Reg} {flags flags' : List Flag} {s t : State} (h : Only regs flags s t)
    (hr : ∀ r ∈ regs, r ∈ regs') (hf : ∀ f ∈ flags, f ∈ flags') : Only regs' flags' s t :=
  ⟨h.frame.mono hr hf, h.unused, h.pc, h.ram, h.prg, h.cycles, h.events, h.draws⟩

theorem Only.trans {regs : List Reg} {flags : List Flag} {s t u : State} (h : Only regs flags s t)
    (k : Only regs flags t u) : Only regs flags s u :=
  ⟨h.frame.trans k.frame, k.unused.trans h.unused, k.pc.trans h.pc, k.ram.trans h.ram, k.prg.trans h.prg,
    k.cycles.trans h.cycles, k.events.trans h.events, k.draws.trans h.draws⟩

/-! What each effect changes. -/

theorem Only.setA (v : Byte) (s : State) : Only [.a] [] s (s.setA v) :=
  ⟨⟨by intro r h; cases r <;> first | rfl | simp at h, fun _ _ => rfl, rfl, rfl, rfl, rfl, rfl, rfl⟩,
    rfl, rfl, rfl, rfl, rfl, rfl, rfl⟩

theorem Only.setX (v : Byte) (s : State) : Only [.x] [] s (s.setX v) :=
  ⟨⟨by intro r h; cases r <;> first | rfl | simp at h, fun _ _ => rfl, rfl, rfl, rfl, rfl, rfl, rfl⟩,
    rfl, rfl, rfl, rfl, rfl, rfl, rfl⟩

theorem Only.setY (v : Byte) (s : State) : Only [.y] [] s (s.setY v) :=
  ⟨⟨by intro r h; cases r <;> first | rfl | simp at h, fun _ _ => rfl, rfl, rfl, rfl, rfl, rfl, rfl⟩,
    rfl, rfl, rfl, rfl, rfl, rfl, rfl⟩

theorem Only.setSp (v : Byte) (s : State) : Only [.sp] [] s (s.setSp v) :=
  ⟨⟨by intro r h; cases r <;> first | rfl | simp at h, fun _ _ => rfl, rfl, rfl, rfl, rfl, rfl, rfl⟩,
    rfl, rfl, rfl, rfl, rfl, rfl, rfl⟩

theorem Only.setP {flags : List Flag} {v : Byte} {s : State} (hu : v.getLsbD unusedBit = s.unused)
    (hf : ∀ f, f ∉ flags → v.getLsbD f.bit = s.flag f) : Only [] flags s (s.setP v) :=
  ⟨⟨fun r _ => by cases r <;> rfl, hf, rfl, rfl, rfl, rfl, rfl, rfl⟩, hu, rfl, rfl, rfl, rfl, rfl, rfl⟩

theorem Only.setFlag (f : Flag) (v : Bool) (s : State) : Only [] [f] s (s.setFlag f v) :=
  Only.setP (withFlag_unused f v s.p) (fun g h => by rw [withFlag_bit, if_neg (by simpa using h)]; rfl)

theorem Only.setNZ (v : Byte) (s : State) : Only [] [.n, .z] s (s.setNZ v) :=
  Only.setP (withNZ_unused v s.p) (fun g h => by
    rw [withNZ_bit, if_neg (by rintro rfl; simp at h), if_neg (by rintro rfl; simp at h)]; rfl)

theorem Only.compare (r v : Byte) (s : State) : Only [] [.n, .z, .c] s (s.compare r v) :=
  Only.setP (compareFlags_unused r v s.p) (fun g h => by
    rw [compareFlags_bit, if_neg (by rintro rfl; simp at h), if_neg (by rintro rfl; simp at h),
      if_neg (by rintro rfl; simp at h)]; rfl)

theorem Only.loadA (v : Byte) (s : State) : Only [.a] [.n, .z] s (s.loadA v) :=
  ((Only.setA v s).mono (by simp) (by simp)).trans ((Only.setNZ v _).mono (by simp) (by simp))

theorem Only.loadX (v : Byte) (s : State) : Only [.x] [.n, .z] s (s.loadX v) :=
  ((Only.setX v s).mono (by simp) (by simp)).trans ((Only.setNZ v _).mono (by simp) (by simp))

theorem Only.loadY (v : Byte) (s : State) : Only [.y] [.n, .z] s (s.loadY v) :=
  ((Only.setY v s).mono (by simp) (by simp)).trans ((Only.setNZ v _).mono (by simp) (by simp))

theorem Only.addWithCarry (b : Byte) (s : State) : Only [.a] [.c, .v, .n, .z] s (s.addWithCarry b) :=
  ((((Only.setFlag .c _ s).mono (by simp) (by simp)).trans ((Only.setFlag .v _ _).mono (by simp) (by simp))).trans
    ((Only.setA _ _).mono (by simp) (by simp))).trans ((Only.setNZ _ _).mono (by simp) (by simp))

/-- The accesses of an operand change no register and no flag. -/
theorem Frame.operandState (regs : List Reg) (flags : List Flag) (o : Operand) (s : State) :
    Frame regs flags s (operandState o s) := by
  obtain ⟨d, e, h⟩ := operandState_effect o s
  rw [h]
  exact ⟨fun r _ => by cases r <;> rfl, fun _ _ => rfl, rfl, rfl, rfl, rfl, rfl, rfl⟩

/-- A charge changes no register and no flag. -/
theorem Frame.charge (regs : List Reg) (flags : List Flag) (n : Nat) (s : State) :
    Frame regs flags s (charge n s) :=
  ⟨fun r _ => by cases r <;> rfl, fun _ _ => rfl, rfl, rfl, rfl, rfl, rfl, rfl⟩

theorem SameMemory.of_eq {s t : State} (hr : t.ram = s.ram) (hp : t.prg = s.prg) (hb : t.bank = s.bank) :
    SameMemory s t := peek_congr hr hp hb

theorem account_eq_charge (i : Instr) (k : Bool) (s : State) : account i k 0 s = charge (instrCost i k) s := by
  simp only [account, instrCost, Bool.and_eq_true, Nat.add_zero]

/-! The shapes. -/

/-- An instruction that reads its operand, whose effect changes only `regs` and `flags`. -/
theorem readOutcome {i : Instr} {o : Operand} {f : Byte → State → State} {regs : List Reg} {flags : List Flag}
    (s : State) (h : ∀ v t, Only regs flags t (f v t)) : ReadOutcome i o regs flags s (readInstr i o f s) := by
  have k := h (operandValue o s) (operandState o s)
  rw [readInstr_eq, account_eq_charge]
  refine ⟨((Frame.operandState _ _ o s).trans k.frame).trans (Frame.charge _ _ _ _), ?_, ?_, ?_, ?_, ?_, ?_⟩
  · exact k.unused.trans (unused_eq_of_p (operandState_p o s))
  · exact k.pc.trans (operandState_pc o s)
  · exact SameMemory.of_eq (k.ram.trans (operandState_ram o s)) (k.prg.trans (operandState_prg o s))
      (k.frame.bank.trans (operandState_bank o s))
  · rw [charge_cycles, k.cycles, operandState_cycles]
  · rw [charge_events, k.events]; rfl
  · rw [charge_draws, k.draws]

/-- An instruction without data access, whose effect changes only `regs` and `flags`. -/
theorem plainOutcome {i : Instr} {f : State → State} {regs : List Reg} {flags : List Flag} {n : Nat} (s : State)
    (h : Only regs flags s (f s)) (hn : i.baseCycles = n) : PlainOutcome n regs flags s (plainInstr i f s) := by
  have e : plainInstr i f s = charge n (f s) := by
    simp only [plainInstr, account, hn, Bool.and_false, Bool.false_eq_true, if_false, Nat.add_zero]
  rw [e]
  refine ⟨h.frame.trans (Frame.charge _ _ _ _), h.unused, ?_, ?_, ?_, ?_⟩
  · exact SameMemory.of_eq h.ram h.prg h.frame.bank
  · rw [charge_cycles, h.cycles]
  · rw [charge_events, h.events]; rfl
  · rw [charge_draws, h.draws]

/-- A charge, after an effect that changes only `regs`, `flags` and PC. -/
theorem jumpOutcome {regs : List Reg} {flags : List Flag} {n : Nat} {s u : State} (pc : Word)
    (h : Only regs flags s u) : PlainOutcome n regs flags s (charge n (u.setPc pc)) :=
  ⟨⟨fun r m => (by cases r <;> rfl : (charge n (u.setPc pc)).reg r = u.reg r).trans (h.frame.reg r m),
    h.frame.flag, h.frame.pending, h.frame.fault, h.frame.stopped, h.frame.bank, h.frame.chr, h.frame.mirroring⟩,
    h.unused, SameMemory.of_eq h.ram h.prg h.frame.bank,
    ⟨by rw [charge_cycles, State.setPc_cycles, h.cycles], by rw [charge_events, State.setPc_events, h.events]; rfl,
      by rw [charge_draws, State.setPc_draws, h.draws]⟩⟩

/-- What stands at every address after a bus write away from the ROM window. -/
theorem storedAt_busWrite (a : Word) (v : Byte) (s : State) : StoredAt a v s (busWrite a v s) := by
  intro b
  rw [peek_busWrite]
  unfold SameCell
  constructor
  · intro h; rw [if_pos h]
  · intro h; rw [if_neg h]

/-- A bus write away from the ROM window changes no register and no flag. -/
theorem Frame.busWrite (regs : List Reg) (flags : List Flag) {a : Word} (v : Byte) (s : State)
    (h : inRom a = false) : Frame regs flags s (busWrite a v s) :=
  ⟨fun r _ => by cases r <;> simp [State.reg], fun _ _ => busWrite_flag a v s _, busWrite_pending a v s,
    busWrite_fault_ok v s h, busWrite_stopped a v s, busWrite_bank a v s, busWrite_chr a v s,
    busWrite_mirroring a v s⟩

theorem StoredAt.congr {ea : Word} {v : Byte} {s s' t t' : State} (h : StoredAt ea v s t) (hs : SameMemory s' s)
    (ht : SameMemory t t') : StoredAt ea v s' t' :=
  fun b => ⟨fun k => by rw [ht b, (h b).1 k], fun k => by rw [ht b, (h b).2 k, hs b]⟩

/-- A store and then an effect on `regs` and `flags` alone, after accesses that led from `s` to `m`. -/
theorem storeOutcome {i : Instr} {o : Operand} {v : Byte} {m : State} {regs : List Reg} {flags : List Flag}
    {s u : State} (hm : ∃ d e, m = { s with draws := d, events := e }) (ha : inRom (effectiveAddress o s) = false)
    (h : Only regs flags (busWrite (effectiveAddress o s) v m) u) :
    StoreOutcome i o v m regs flags s (account i (pageCrossed o s) 0 u) := by
  rw [account_eq_charge]
  obtain ⟨d, e, hm⟩ := hm
  have fm : Frame regs flags s m := by
    rw [hm]; exact ⟨fun r _ => by cases r <;> rfl, fun _ _ => rfl, rfl, rfl, rfl, rfl, rfl, rfl⟩
  have hp : m.p = s.p := by rw [hm]
  refine ⟨((fm.trans (Frame.busWrite _ _ v m ha)).trans h.frame).trans (Frame.charge _ _ _ _), ?_, ?_, ?_, ?_⟩
  · exact h.unused.trans (unused_eq_of_p ((busWrite_p _ v m).trans hp))
  · exact h.pc.trans ((busWrite_pc _ v m).trans (by rw [hm]))
  · refine (storedAt_busWrite _ v m).congr (SameMemory.of_eq ?_ ?_ ?_) (SameMemory.of_eq h.ram h.prg h.frame.bank)
    · rw [hm]
    · rw [hm]
    · rw [hm]
  · refine ⟨?_, ?_, ?_⟩
    · rw [charge_cycles, h.cycles, busWrite_cycles, hm]
    · rw [charge_events, h.events]; rfl
    · rw [charge_draws, h.draws]

/-- A store instruction away from the ROM window. -/
theorem writeOutcome (i : Instr) {o : Operand} (v : Byte) (s : State) (ho : o ≠ .acc) (hm : o.mode ≠ .ind)
    (ha : inRom (effectiveAddress o s) = false) : StoreOutcome i o v s [] [] s (writeInstr i o v s) := by
  rw [writeInstr_ok v s ho hm ha]
  exact storeOutcome ⟨s.draws, s.events, rfl⟩ ha (Only.refl _ _ _)

/-- A read-modify-write instruction that stores `r`, away from the ROM window. -/
theorem modifyOutcome {i : Instr} {o : Operand} {f : Byte → State → Byte} {g : Byte → Byte → State → State} {r : Byte}
    {regs : List Reg} {flags : List Flag} (s : State) (ho : o ≠ .acc) (ha : inRom (effectiveAddress o s) = false)
    (hr : f (operandValue o s) (operandState o s) = r) (h : ∀ v r t, Only regs flags t (g v r t)) :
    StoreOutcome i o r (operandState o s) regs flags s (modifyInstr i o f g s) := by
  rw [modifyInstr_ok s ho ha, ← hr]
  exact storeOutcome (operandState_effect o s) ha (h _ _ _)

/-- An operand away from a peripheral is read without effect. -/
theorem operandState_plain {o : Operand} (s : State) (hm : o.mode ≠ .ind)
    (h : answered (effectiveAddress o s) = false) : operandState o s = s := by
  by_cases h1 : o = .acc
  · subst h1; rfl
  · by_cases h2 : ∃ b, o = .imm b
    · obtain ⟨b, rfl⟩ := h2; rfl
    · have k := operand_bus s h1 (fun b e => h2 ⟨b, e⟩)
      rw [resolve_state s hm] at k
      have k2 : operandState o s = (busRead (effectiveAddress o s) s).2 := congrArg Prod.snd k
      rw [k2]
      unfold answered at h
      unfold busRead
      cases e : readTarget (effectiveAddress o s) with
      | ram i => rfl
      | rom => rfl
      | zero => rfl
      | controller => rw [e] at h; cases h
      | video r => rw [e] at h; cases h

theorem answered_of_inRom {a : Word} (h : inRom a = true) : answered a = false := by
  unfold answered
  rw [readTarget_of_inRom h]

/-- An operand in the ROM window is read without effect. -/
theorem operandState_rom {o : Operand} (s : State) (hm : o.mode ≠ .ind)
    (h : inRom (effectiveAddress o s) = true) : operandState o s = s :=
  operandState_plain s hm (answered_of_inRom h)

/-- A read-modify-write instruction on the ROM window records the fault, and changes nothing else. -/
theorem modifyInstr_romFault {i : Instr} {o : Operand} {f : Byte → State → Byte}
    {g : Byte → Byte → State → State} (s : State) (ho : o ≠ .acc) (hm : o.mode ≠ .ind)
    (ha : inRom (effectiveAddress o s) = true) :
    modifyInstr i o f g s = romFault o (f (operandValue o s) s) s := by
  rw [modifyInstr_fault s ho ha, operandState_rom s hm ha]
  rfl

/-- What stands at a stack address. -/
theorem peek_stackAddr (s : State) (b : Byte) : peek s (stackAddr b) = s.ram.read (0x100 + b.toNat) := by
  rw [peek_ram s (inRam_stackAddr b), ramIndex_stackAddr]

/-- An operand of one of a list of modes without ACC and IND is neither. -/
theorem oneOf_ne {o : Operand} {ms : List Mode} (h : o.oneOf ms = true) (h1 : Mode.acc ∉ ms) (h2 : Mode.ind ∉ ms) :
    o ≠ .acc ∧ o.mode ≠ .ind := by
  simp only [Operand.oneOf, decide_eq_true_eq] at h
  constructor
  · rintro rfl; exact h1 h
  · intro e; rw [e] at h; exact h2 h

end Sys2Proof.Machine
end

