-- ==== Sys2Proof/Laws/Regions.lean ====
section
/-! SUPPORT. The regions, addresses and pointers of the machine in natural numbers. -/

namespace Sys2Proof.Machine

set_option Elab.async false

/-- A 16-bit value from its bytes (R10). -/
theorem word16_toNat (h l : Byte) : (word16 h l).toNat = h.toNat * 256 + l.toNat := by
  have hl := l.isLt
  have := h.isLt
  simp only [word16, BitVec.toNat_append, Nat.shiftLeft_eq]
  rw [Nat.mul_comm, ← Nat.two_pow_add_eq_or_of_lt hl]

/-- The RAM window (R82). -/
theorem inRam_eq (a : Word) : inRam a = decide (a.toNat < 0x2000) := by
  unfold inRam; rw [decide_eq_decide]; show _ ≤ 0x1FFF ↔ _; omega

/-- The ROM window (R88). -/
theorem inRom_eq (a : Word) : inRom a = decide (0x8000 ≤ a.toNat) := by
  simp only [inRom, Config.romBase]; rfl

/-- The video window (R86). -/
theorem inVideo_eq (a : Word) : inVideo a = (decide (0x2000 ≤ a.toNat) && decide (a.toNat < 0x4000)) := by
  have : decide (a.toNat ≤ Config.videoWindowEnd.toNat) = decide (a.toNat < 0x4000) := by rw [decide_eq_decide]; show _ ≤ 0x3FFF ↔ _; omega
  unfold inVideo; rw [this]; rfl

/-- The RAM cell of an address (R82). -/
theorem ramIndex_eq (a : Word) : ramIndex a = a.toNat % 0x0800 := by
  simp only [ramIndex, Config.ramMask, BitVec.toNat_and]
  exact Nat.and_two_pow_sub_one_eq_mod a.toNat 11

/-- The canonical video register of an address (R86). -/
theorem canonicalVideo_eq (a : Word) (h1 : 0x2000 ≤ a.toNat) (h2 : a.toNat < 0x4000) : canonicalVideo a = BitVec.ofNat 16 (0x2000 + a.toNat % 8) := by
  apply BitVec.eq_of_toNat_eq
  have e : a.toNat = 0x2000 + (a.toNat - 0x2000) := by omega
  have hx : a.toNat - 0x2000 < 8192 := by omega
  simp only [canonicalVideo, Config.videoMask, BitVec.toNat_and]
  have : BitVec.toNat (0x2007 : Word) = 0x2000 ||| 7 := rfl
  rw [this, Nat.and_or_distrib_left]
  have k1 : a.toNat &&& 0x2000 = 0x2000 := by
    have := Nat.and_two_pow a.toNat 13
    rw [show (0x2000:Nat) = 2^13 from rfl, this, Nat.testBit_eq_decide_div_mod_eq]
    have : a.toNat / 2^13 % 2 = 1 := by omega
    rw [this]; rfl
  have k2 : a.toNat &&& 7 = a.toNat % 8 := Nat.and_two_pow_sub_one_eq_mod a.toNat 3
  rw [k1, k2]
  have := Nat.two_pow_add_eq_or_of_lt (i := 13) (b := a.toNat % 8) (by omega) 1
  simp at this
  rw [← this]
  simp; omega

/-- The readable video registers (R84). -/
theorem readableVideo_eq (n : Nat) (h : n < 8) : readableVideo (BitVec.ofNat 16 (0x2000 + n)) = decide (n ∈ [2,4,7]) := by
  have : ∀ k : Fin 8, readableVideo (BitVec.ofNat 16 (0x2000 + k.val)) = decide (k.val ∈ [2,4,7]) := by decide
  exact this ⟨n, h⟩

/-- The distance from the base of the ROM window (R88). -/
theorem sub_romBase_toNat (a : Word) (h : 0x8000 ≤ a.toNat) : (a - Config.romBase).toNat = a.toNat - 0x8000 := by
  have := a.isLt
  rw [BitVec.toNat_sub]; show (2^16 - 0x8000 + a.toNat) % 2^16 = _; omega

/-- A read that no external agent answers gives what stands there and has no effect (R76). -/
theorem busRead_of_not_answered {a : Word} (s : State) (h : answered a = false) : busRead a s = (peek s a, s) := by
  unfold answered at h
  unfold busRead peek
  cases e : readTarget a <;> rw [e] at h <;> first | rfl | cases h

theorem zeroPage_toNat (b : Byte) : (zeroPage b).toNat = b.toNat := by revert b; decide +kernel

theorem peek_zeroPage (s : State) (b : Byte) : peek s (zeroPage b) = s.ram.read b.toNat := by
  rw [peek_ram s (inRam_zeroPage b), ramIndex_zeroPage]

theorem ofNat_eq_zeroPage (n : Nat) (b : Byte) (h : b.toNat = n) : BitVec.ofNat 16 n = zeroPage b := by
  subst h; apply BitVec.eq_of_toNat_eq; rw [zeroPage_toNat]; simp; have := b.isLt; omega

/-- The second byte of JMP's pointer, with the page bug (R141). -/
theorem sameNextInPage_eq (w : Word) : sameNextInPage w = if w.toNat % 256 = 255 then w - 255 else w + 1 := by
  have hw := w.isLt
  apply BitVec.eq_of_toNat_eq
  have e : sameNextInPage w = word16 (hi8 w) (lo8 (w + 1)) := by
    apply BitVec.eq_of_getLsbD_eq
    intro i hi
    simp only [sameNextInPage, word16, hi8, lo8, BitVec.getLsbD_or, BitVec.getLsbD_and, BitVec.getLsbD_append, BitVec.getLsbD_extractLsb']
    have : i = 0 ∨ i = 1 ∨ i = 2 ∨ i = 3 ∨ i = 4 ∨ i = 5 ∨ i = 6 ∨ i = 7 ∨ i = 8 ∨ i = 9 ∨ i = 10 ∨ i = 11 ∨ i = 12 ∨ i = 13 ∨ i = 14 ∨ i = 15 := by omega
    rcases this with rfl|rfl|rfl|rfl|rfl|rfl|rfl|rfl|rfl|rfl|rfl|rfl|rfl|rfl|rfl|rfl <;> simp
  rw [e, word16_toNat]
  have h1 : (hi8 w).toNat = w.toNat / 256 := by
    simp [hi8, BitVec.extractLsb'_toNat, Nat.shiftRight_eq_div_pow]; omega
  have h2 : (lo8 (w+1)).toNat = (w.toNat + 1) % 256 := by
    simp [lo8, BitVec.extractLsb'_toNat]
  rw [h1, h2]
  split
  · simp [BitVec.toNat_sub]; omega
  · simp; omega

/-- The signed reading of a byte (R10). -/
theorem toInt_eq (b : Byte) : b.toInt = if 128 ≤ b.toNat then (b.toNat : Int) - 256 else b.toNat := by
  revert b; decide +kernel

/-- The target of a branch (R139). -/
theorem branchTarget_toNat (s : State) (b : Byte) : ((s.pc + signExtend16 b).toNat : Int) = ((s.pc.toNat : Int) + b.toInt) % 65536 := by
  have : (signExtend16 b).toNat = if 128 ≤ b.toNat then b.toNat + 65280 else b.toNat := by revert b; decide +kernel
  rw [BitVec.toNat_add, this, toInt_eq]
  have := s.pc.isLt; have := b.isLt
  split <;> omega

/-- A page is crossed when the high byte changes. -/
theorem crosses_iff (x y : Word) : crosses x y = true ↔ y.toNat / 256 ≠ x.toNat / 256 := by
  have h : ∀ w : Word, (hi8 w).toNat = w.toNat / 256 := by
    intro w; have := w.isLt
    simp [hi8, BitVec.extractLsb'_toNat, Nat.shiftRight_eq_div_pow]; omega
  simp only [crosses, decide_eq_true_eq, ne_eq]
  rw [← h, ← h, BitVec.toNat_inj]

/-- What the return from an interrupt comes to (R295). -/
theorem returnFromInterrupt_eq (s : State) : returnFromInterrupt s = ((s.setSp (s.sp + 3)).setP (importP (s.ram.read (0x100 + (s.sp+1).toNat)))).setPc (word16 (s.ram.read (0x100 + (s.sp+3).toNat)) (s.ram.read (0x100 + (s.sp+2).toNat))) := by
  simp only [returnFromInterrupt, pop8_eq, pop16_eq]
  simp only [State.setP_sp, State.setSp_sp, State.setP_ram, State.setSp_ram]
  rw [show s.sp + 1 + 2 = s.sp + 3 by bv_omega, show s.sp + 1 + 1 = s.sp + 2 by bv_omega]
  rfl

end Sys2Proof.Machine
end

