-- ==== Sys2Proof/Laws/Arith.lean ====
section
/-! SUPPORT. The results of additions, subtractions, shifts and rotates. -/

namespace Sys2Proof.Machine

set_option Elab.async false

/-- The sum modulo 256 (R240). -/
theorem addBytes_result (a b : Byte) (c : Bool) : (addBytes a b c).result.toNat = (a.toNat + b.toNat + (if c then 1 else 0)) % 256 := by
  cases c <;> simp [addBytes, sum16]

/-- The carry of a sum (R240). -/
theorem addBytes_carry (a b : Byte) (c : Bool) : (addBytes a b c).carry = true ↔ a.toNat + b.toNat + (if c then 1 else 0) > 0xFF := by
  cases c <;> simp [addBytes, sum16]

/-- Adding the complement subtracts with borrow (R242). -/
theorem addBytes_not_result (a b : Byte) (c : Bool) : (addBytes a (~~~b) c).result = a - b - BitVec.ofNat 8 (1 - (if c then 1 else 0)) := by
  apply BitVec.eq_of_toNat_eq
  have := a.isLt; have := b.isLt
  cases c <;> simp [addBytes, sum16, BitVec.toNat_not, BitVec.toNat_sub] <;> omega

/-- The carry of a subtraction: no borrow (R242). -/
theorem addBytes_not_carry (a b : Byte) (c : Bool) : (addBytes a (~~~b) c).carry = true ↔ b.toNat + (1 - (if c then 1 else 0)) ≤ a.toNat := by
  have := a.isLt; have := b.isLt
  cases c <;> simp [addBytes, sum16, BitVec.toNat_not] <;> omega

/-- The sign bit of a byte. -/
theorem getLsbD_seven (b : Byte) : b.getLsbD 7 = decide (128 ≤ b.toNat) := by
  revert b; decide +kernel

/-- The overflow of a sum is the signed overflow (R240). -/
theorem addBytes_overflow (a b : Byte) (c : Bool) : (addBytes a b c).overflow = false ↔ (-128 ≤ a.toInt + b.toInt + (if c then 1 else 0) ∧ a.toInt + b.toInt + (if c then 1 else 0) ≤ 127) := by
  have e := addBytes_result a b c
  have : (addBytes a b c).overflow = ((((addBytes a b c).result).getLsbD 7 ^^ a.getLsbD 7) && (((addBytes a b c).result).getLsbD 7 ^^ b.getLsbD 7)) := by
    simp [addBytes]
  rw [this, getLsbD_seven, getLsbD_seven, getLsbD_seven, toInt_eq, toInt_eq, e]
  have := a.isLt; have := b.isLt
  generalize a.toNat = x at *; generalize b.toNat = y at *
  by_cases h1 : 128 ≤ x <;> by_cases h2 : 128 ≤ y <;> cases c <;> simp [h1, h2] <;> omega

/-- The signed reading of a complement. -/
theorem toInt_not (b : Byte) : (~~~b).toInt = - b.toInt - 1 := by
  revert b; decide +kernel

theorem shiftLeft_eq (v : Byte) : shiftLeft v = v <<< 1 := by revert v; decide +kernel

theorem shiftRight_eq (v : Byte) : shiftRight v = v >>> 1 := by revert v; decide +kernel

theorem rotateLeft_eq (v : Byte) (c : Bool) : rotateLeft v c = (v <<< 1) ||| (if c then 1 else 0) := by
  rw [rotateLeft, shiftLeft_eq]; cases c <;> rfl

theorem rotateRight_eq (v : Byte) (c : Bool) : rotateRight v c = (v >>> 1) ||| (if c then 0x80 else 0) := by
  rw [rotateRight, shiftRight_eq]; cases c <;> rfl

end Sys2Proof.Machine
end

