-- ==== Sys2Proof/Laws/PerInstr.lean ====
section
/-! SUPPORT. A statement about every instruction as a term, one lemma per constructor of Instr: a well-formed
instruction has an opcode byte, whose row of the opcode table names its mnemonic, and its length is the row's. -/

namespace Sys2Proof.Laws.TableRow

set_option Elab.async false

/-- A well-formed instruction has a row of the opcode table (R123): its opcode's descriptor has its mnemonic and its
length (R125). -/
def Statement (i : Instr) : Prop :=
  i.wellFormed = true →
    ∃ op, i.opcode = some op ∧ (descriptor op).mnemonic = i.mnemonic ∧
      i.operandBytes.length + 1 = (descriptor op).length

theorem lda (o : Operand) : Statement (.lda o) := by
  intro h; cases o <;> first | exact ⟨_, rfl, rfl, rfl⟩ | cases h

theorem ldx (o : Operand) : Statement (.ldx o) := by
  intro h; cases o <;> first | exact ⟨_, rfl, rfl, rfl⟩ | cases h

theorem ldy (o : Operand) : Statement (.ldy o) := by
  intro h; cases o <;> first | exact ⟨_, rfl, rfl, rfl⟩ | cases h

theorem sta (o : Operand) : Statement (.sta o) := by
  intro h; cases o <;> first | exact ⟨_, rfl, rfl, rfl⟩ | cases h

theorem stx (o : Operand) : Statement (.stx o) := by
  intro h; cases o <;> first | exact ⟨_, rfl, rfl, rfl⟩ | cases h

theorem sty (o : Operand) : Statement (.sty o) := by
  intro h; cases o <;> first | exact ⟨_, rfl, rfl, rfl⟩ | cases h

theorem tax : Statement (.tax) := by
  intro _; exact ⟨_, rfl, rfl, rfl⟩

theorem tay : Statement (.tay) := by
  intro _; exact ⟨_, rfl, rfl, rfl⟩

theorem txa : Statement (.txa) := by
  intro _; exact ⟨_, rfl, rfl, rfl⟩

theorem tya : Statement (.tya) := by
  intro _; exact ⟨_, rfl, rfl, rfl⟩

theorem tsx : Statement (.tsx) := by
  intro _; exact ⟨_, rfl, rfl, rfl⟩

theorem txs : Statement (.txs) := by
  intro _; exact ⟨_, rfl, rfl, rfl⟩

theorem pha : Statement (.pha) := by
  intro _; exact ⟨_, rfl, rfl, rfl⟩

theorem php : Statement (.php) := by
  intro _; exact ⟨_, rfl, rfl, rfl⟩

theorem pla : Statement (.pla) := by
  intro _; exact ⟨_, rfl, rfl, rfl⟩

theorem plp : Statement (.plp) := by
  intro _; exact ⟨_, rfl, rfl, rfl⟩

theorem adc (o : Operand) : Statement (.adc o) := by
  intro h; cases o <;> first | exact ⟨_, rfl, rfl, rfl⟩ | cases h

theorem sbc (o : Operand) : Statement (.sbc o) := by
  intro h; cases o <;> first | exact ⟨_, rfl, rfl, rfl⟩ | cases h

theorem cmp (o : Operand) : Statement (.cmp o) := by
  intro h; cases o <;> first | exact ⟨_, rfl, rfl, rfl⟩ | cases h

theorem cpx (o : Operand) : Statement (.cpx o) := by
  intro h; cases o <;> first | exact ⟨_, rfl, rfl, rfl⟩ | cases h

theorem cpy (o : Operand) : Statement (.cpy o) := by
  intro h; cases o <;> first | exact ⟨_, rfl, rfl, rfl⟩ | cases h

theorem inc (o : Operand) : Statement (.inc o) := by
  intro h; cases o <;> first | exact ⟨_, rfl, rfl, rfl⟩ | cases h

theorem dec (o : Operand) : Statement (.dec o) := by
  intro h; cases o <;> first | exact ⟨_, rfl, rfl, rfl⟩ | cases h

theorem inx : Statement (.inx) := by
  intro _; exact ⟨_, rfl, rfl, rfl⟩

theorem iny : Statement (.iny) := by
  intro _; exact ⟨_, rfl, rfl, rfl⟩

theorem dex : Statement (.dex) := by
  intro _; exact ⟨_, rfl, rfl, rfl⟩

theorem dey : Statement (.dey) := by
  intro _; exact ⟨_, rfl, rfl, rfl⟩

theorem and (o : Operand) : Statement (.and o) := by
  intro h; cases o <;> first | exact ⟨_, rfl, rfl, rfl⟩ | cases h

theorem ora (o : Operand) : Statement (.ora o) := by
  intro h; cases o <;> first | exact ⟨_, rfl, rfl, rfl⟩ | cases h

theorem eor (o : Operand) : Statement (.eor o) := by
  intro h; cases o <;> first | exact ⟨_, rfl, rfl, rfl⟩ | cases h

theorem bit (o : Operand) : Statement (.bit o) := by
  intro h; cases o <;> first | exact ⟨_, rfl, rfl, rfl⟩ | cases h

theorem asl (o : Operand) : Statement (.asl o) := by
  intro h; cases o <;> first | exact ⟨_, rfl, rfl, rfl⟩ | cases h

theorem lsr (o : Operand) : Statement (.lsr o) := by
  intro h; cases o <;> first | exact ⟨_, rfl, rfl, rfl⟩ | cases h

theorem rol (o : Operand) : Statement (.rol o) := by
  intro h; cases o <;> first | exact ⟨_, rfl, rfl, rfl⟩ | cases h

theorem ror (o : Operand) : Statement (.ror o) := by
  intro h; cases o <;> first | exact ⟨_, rfl, rfl, rfl⟩ | cases h

theorem jmpAbs (target : Word) : Statement (.jmpAbs target) := by
  intro _; exact ⟨_, rfl, rfl, rfl⟩

theorem jmpInd (ptr : Word) : Statement (.jmpInd ptr) := by
  intro _; exact ⟨_, rfl, rfl, rfl⟩

theorem jsr (target : Word) : Statement (.jsr target) := by
  intro _; exact ⟨_, rfl, rfl, rfl⟩

theorem rts : Statement (.rts) := by
  intro _; exact ⟨_, rfl, rfl, rfl⟩

theorem rti : Statement (.rti) := by
  intro _; exact ⟨_, rfl, rfl, rfl⟩

theorem bpl (offset : Byte) : Statement (.bpl offset) := by
  intro _; exact ⟨_, rfl, rfl, rfl⟩

theorem bmi (offset : Byte) : Statement (.bmi offset) := by
  intro _; exact ⟨_, rfl, rfl, rfl⟩

theorem bvc (offset : Byte) : Statement (.bvc offset) := by
  intro _; exact ⟨_, rfl, rfl, rfl⟩

theorem bvs (offset : Byte) : Statement (.bvs offset) := by
  intro _; exact ⟨_, rfl, rfl, rfl⟩

theorem bcc (offset : Byte) : Statement (.bcc offset) := by
  intro _; exact ⟨_, rfl, rfl, rfl⟩

theorem bcs (offset : Byte) : Statement (.bcs offset) := by
  intro _; exact ⟨_, rfl, rfl, rfl⟩

theorem bne (offset : Byte) : Statement (.bne offset) := by
  intro _; exact ⟨_, rfl, rfl, rfl⟩

theorem beq (offset : Byte) : Statement (.beq offset) := by
  intro _; exact ⟨_, rfl, rfl, rfl⟩

theorem brk : Statement (.brk) := by
  intro _; exact ⟨_, rfl, rfl, rfl⟩

theorem nop : Statement (.nop) := by
  intro _; exact ⟨_, rfl, rfl, rfl⟩

theorem clc : Statement (.clc) := by
  intro _; exact ⟨_, rfl, rfl, rfl⟩

theorem sec : Statement (.sec) := by
  intro _; exact ⟨_, rfl, rfl, rfl⟩

theorem cli : Statement (.cli) := by
  intro _; exact ⟨_, rfl, rfl, rfl⟩

theorem sei : Statement (.sei) := by
  intro _; exact ⟨_, rfl, rfl, rfl⟩

theorem clv : Statement (.clv) := by
  intro _; exact ⟨_, rfl, rfl, rfl⟩

theorem cld : Statement (.cld) := by
  intro _; exact ⟨_, rfl, rfl, rfl⟩

theorem sed : Statement (.sed) := by
  intro _; exact ⟨_, rfl, rfl, rfl⟩

theorem nopImp (op : Byte) : Statement (.nopImp op) := by
  intro h
  have hm : op ∈ nopImpOpcodes := by simpa [Instr.wellFormed] using h
  refine ⟨op, if_pos hm, ?_⟩
  clear h
  revert op
  show ∀ op, op ∈ nopImpOpcodes → (descriptor op).mnemonic = .nop ∧ 1 = (descriptor op).length
  decide +kernel

theorem nopImm (op : Byte) (value : Byte) : Statement (.nopImm op value) := by
  intro h
  have hm : op ∈ nopImmOpcodes := by simpa [Instr.wellFormed] using h
  refine ⟨op, if_pos hm, ?_⟩
  clear h
  revert op
  show ∀ op, op ∈ nopImmOpcodes → (descriptor op).mnemonic = .nop ∧ 2 = (descriptor op).length
  decide +kernel

theorem nopMem (op : Byte) (o : Operand) : Statement (.nopMem op o) := by
  intro h
  have hm : op ∈ nopMemOpcodes o.mode := by simpa [Instr.wellFormed] using h
  refine ⟨op, if_pos hm, ?_⟩
  show (descriptor op).mnemonic = .nop ∧ o.bytes.length + 1 = (descriptor op).length
  clear h
  cases o <;> first
    | (revert hm; revert op; decide +kernel)
    | (revert hm; simp only [Operand.bytes, Operand.mode, List.length]; revert op; decide +kernel)

theorem slo (o : Operand) : Statement (.slo o) := by
  intro h; cases o <;> first | exact ⟨_, rfl, rfl, rfl⟩ | cases h

theorem rla (o : Operand) : Statement (.rla o) := by
  intro h; cases o <;> first | exact ⟨_, rfl, rfl, rfl⟩ | cases h

theorem sre (o : Operand) : Statement (.sre o) := by
  intro h; cases o <;> first | exact ⟨_, rfl, rfl, rfl⟩ | cases h

theorem rra (o : Operand) : Statement (.rra o) := by
  intro h; cases o <;> first | exact ⟨_, rfl, rfl, rfl⟩ | cases h

theorem sax (o : Operand) : Statement (.sax o) := by
  intro h; cases o <;> first | exact ⟨_, rfl, rfl, rfl⟩ | cases h

theorem lax (o : Operand) : Statement (.lax o) := by
  intro h; cases o <;> first | exact ⟨_, rfl, rfl, rfl⟩ | cases h

theorem dcp (o : Operand) : Statement (.dcp o) := by
  intro h; cases o <;> first | exact ⟨_, rfl, rfl, rfl⟩ | cases h

theorem isb (o : Operand) : Statement (.isb o) := by
  intro h; cases o <;> first | exact ⟨_, rfl, rfl, rfl⟩ | cases h

theorem anc (op : Byte) (value : Byte) : Statement (.anc op value) := by
  intro h
  have hm : op ∈ ancOpcodes := by simpa [Instr.wellFormed] using h
  refine ⟨op, if_pos hm, ?_⟩
  clear h
  revert op
  show ∀ op, op ∈ ancOpcodes → (descriptor op).mnemonic = .anc ∧ 2 = (descriptor op).length
  decide +kernel

theorem alr (value : Byte) : Statement (.alr value) := by
  intro _; exact ⟨_, rfl, rfl, rfl⟩

theorem arr (value : Byte) : Statement (.arr value) := by
  intro _; exact ⟨_, rfl, rfl, rfl⟩

theorem axs (value : Byte) : Statement (.axs value) := by
  intro _; exact ⟨_, rfl, rfl, rfl⟩

theorem sbcEB (value : Byte) : Statement (.sbcEB value) := by
  intro _; exact ⟨_, rfl, rfl, rfl⟩

theorem las (addr : Word) : Statement (.las addr) := by
  intro _; exact ⟨_, rfl, rfl, rfl⟩

theorem xaa (value : Byte) : Statement (.xaa value) := by
  intro _; exact ⟨_, rfl, rfl, rfl⟩

theorem lxa (value : Byte) : Statement (.lxa value) := by
  intro _; exact ⟨_, rfl, rfl, rfl⟩

theorem ahx (o : Operand) : Statement (.ahx o) := by
  intro h; cases o <;> first | exact ⟨_, rfl, rfl, rfl⟩ | cases h

theorem tas (addr : Word) : Statement (.tas addr) := by
  intro _; exact ⟨_, rfl, rfl, rfl⟩

theorem shy (addr : Word) : Statement (.shy addr) := by
  intro _; exact ⟨_, rfl, rfl, rfl⟩

theorem shx (addr : Word) : Statement (.shx addr) := by
  intro _; exact ⟨_, rfl, rfl, rfl⟩

theorem jam (op : Byte) : Statement (.jam op) := by
  intro h
  have hm : op ∈ jamOpcodes := by simpa [Instr.wellFormed] using h
  refine ⟨op, if_pos hm, ?_⟩
  clear h
  revert op
  show ∀ op, op ∈ jamOpcodes → (descriptor op).mnemonic = .jam ∧ 1 = (descriptor op).length
  decide +kernel

end Sys2Proof.Laws.TableRow
end

