-- ==== Sys2Proof/Laws/Decode.lean ====
section
/-! SUPPORT. What the decoder assembles from an opcode byte and operand bytes. -/

namespace Sys2Proof.Machine

set_option Elab.async false

/-- Every length is 1, 2 or 3 (R125). -/
theorem descriptor_length : ∀ op : Byte, (descriptor op).length = 1 ∨ (descriptor op).length = 2 ∨ (descriptor op).length = 3 := by decide +kernel

/-- The mnemonic assembled is the row's. -/
theorem assemble_mnemonic : ∀ op : Byte, (assemble op 0 0).mnemonic = (descriptor op).mnemonic := by decide +kernel

/-- The operand bytes do not matter to the mnemonic (R124). -/
theorem assemble_mnemonic_any : ∀ op : Byte, ∀ b1 b2 b1' b2' : Byte, (assemble op b1 b2).mnemonic = (assemble op b1' b2').mnemonic := by
  intro op
  have : ∀ op : Byte, ∀ m : Mnemonic, ∀ md : Mode, ∀ b1 b2 b1' b2' : Byte, (assembleRow op m md b1 b2).mnemonic = (assembleRow op m md b1' b2').mnemonic := by
    intro op m md b1 b2 b1' b2'
    cases m <;> first
      | rfl
      | (simp only [assembleRow]; split <;> rfl)
      | (simp only [assembleRow, nopOf]; cases md <;> rfl)
  intro b1 b2 b1' b2'
  exact this _ _ _ _ _ _ _

/-- The opcode of what is assembled is the opcode byte. -/
theorem assemble_opcode : ∀ op b1 b2 : Byte, (assemble op b1 b2).opcode = some op := by
  intro op b1 b2
  have h : (assemble op 0 0).opcode = some op := by revert op; decide +kernel
  have : ∀ op : Byte, ∀ m : Mnemonic, ∀ md : Mode, ∀ b1 b2 b1' b2' : Byte, (assembleRow op m md b1 b2).opcode = (assembleRow op m md b1' b2').opcode := by
    intro op m md b1 b2 b1' b2'
    cases m <;> first
      | rfl
      | (cases md <;> rfl)
      | (simp only [assembleRow]; split <;> first | rfl | (cases md <;> rfl))
  rw [← h]; exact this _ _ _ _ _ _ _

/-- What is assembled is well-formed. -/
theorem assemble_wellFormed : ∀ op b1 b2 : Byte, (assemble op b1 b2).wellFormed = true := by
  intro op b1 b2
  have h : (assemble op 0 0).wellFormed = true := by revert op; decide +kernel
  have : ∀ op : Byte, ∀ m : Mnemonic, ∀ md : Mode, ∀ b1 b2 b1' b2' : Byte, (assembleRow op m md b1 b2).wellFormed = (assembleRow op m md b1' b2').wellFormed := by
    intro op m md b1 b2 b1' b2'
    cases m <;> first
      | rfl
      | (cases md <;> rfl)
      | (simp only [assembleRow]; split <;> first | rfl | (cases md <;> rfl))
  rw [← h]; exact this _ _ _ _ _ _ _

/-- The operand bytes of what is assembled are those the length has (R126). -/
theorem assemble_operandBytes (op : Byte) : ∀ b1 b2 : Byte, (assemble op b1 b2).operandBytes = [b1, b2].take ((descriptor op).length - 1) := by
  have lo : ∀ b1 b2 : Byte, lo8 (word16 b2 b1) = b1 := fun a b => lo8_word16 b a
  have hi : ∀ b1 b2 : Byte, hi8 (word16 b2 b1) = b2 := fun a b => hi8_word16 b a
  have gen : ∀ (m : Mnemonic) (md : Mode) b1 b2 b1' b2', (assembleRow op m md b1 b2).operandBytes.length = (assembleRow op m md b1' b2').operandBytes.length := by
    intro m md b1 b2 b1' b2'
    cases m <;> first
      | rfl
      | (cases md <;> rfl)
      | (simp only [assembleRow]; split <;> first | rfl | (cases md <;> rfl))
  have pre : ∀ (m : Mnemonic) (md : Mode) b1 b2, (assembleRow op m md b1 b2).operandBytes <+: [b1, b2] := by
    intro m md b1 b2
    have q : ∀ o : Operand, o = operandOf md b1 b2 → o.bytes <+: [b1, b2] := by
      rintro o rfl
      cases md <;> simp [operandOf, Operand.bytes, lo8_word16, hi8_word16]
    cases m <;> first
      | exact q _ rfl
      | (simp [assembleRow, Instr.operandBytes, lo8_word16, hi8_word16]; done)
      | (simp only [assembleRow]; split <;> first | exact q _ rfl | simp [Instr.operandBytes, lo8_word16, hi8_word16])
      | (simp only [assembleRow, nopOf]; cases md <;> first | exact q _ rfl | (simp [Instr.operandBytes]; done) | (simp only []; split <;> simp [Instr.operandBytes]))
  intro b1 b2
  have hl : ∀ op : Byte, (assemble op 0 0).operandBytes.length = (descriptor op).length - 1 := by decide +kernel
  have hl' : (assemble op b1 b2).operandBytes.length = (descriptor op).length - 1 := by rw [← hl op]; exact gen _ _ _ _ _ _
  rw [← hl']
  exact (List.prefix_iff_eq_take.1 (pre _ _ _ _))

/-- An implemented row that is no immediate NOP reads its operand bytes. -/
theorem readsOperands_of_implemented : ∀ op : Byte, (descriptor op).implemented = true → op ∉ nopImmOpcodes → (descriptor op).readsOperands = true := by decide +kernel

/-- An immediate NOP reads no operand byte (R332). -/
theorem readsOperands_nopImm : ∀ op : Byte, op ∈ nopImmOpcodes → (descriptor op).readsOperands = false := by decide +kernel

/-- A row behind the unimplemented marker reads no operand byte (R124). -/
theorem readsOperands_of_marked : ∀ op : Byte, (descriptor op).implemented = false → (descriptor op).readsOperands = false := by decide +kernel

theorem assemble_nopImm : ∀ op : Byte, op ∈ nopImmOpcodes → ∀ b1 b2, assemble op b1 b2 = .nopImm op b1 := by
  intro op hop b1 b2
  fin_cases hop <;> rfl

end Sys2Proof.Machine
end

