-- ==== Sys2Proof/Laws/Fetch.lean ====
section
/-! SUPPORT. What the fetch of one instruction comes to. -/

namespace Sys2Proof.Machine

/-- The fetch, from its first read (R121). -/
theorem fetch_eq (s s1 : State) (op : Byte) (h : busRead s.pc { s with stopped := false } = (op, s1)) :
   fetch s = (assemble op (operandByte (descriptor op) 1 (s.pc + 1) s1).1 (operandByte (descriptor op) 2 (s.pc + 2) (operandByte (descriptor op) 1 (s.pc + 1) s1).2).1,
    (operandByte (descriptor op) 2 (s.pc + 2) (operandByte (descriptor op) 1 (s.pc + 1) s1).2).2.setPc (s.pc + BitVec.ofNat 16 (descriptor op).consumed)) := by
  have h' : busRead s.pc (s.setStopped false) = (op, s1) := h
  unfold fetch
  simp only [h']

/-- A step with no fault recorded. -/
theorem step_eq (s : State) (h : s.fault = none) : step s = exec (fetch s).1 (fetch s).2 := by
  unfold step; rw [h]

/-- An operand byte that is not read. -/
theorem operandByte_unread {d : Descriptor} {k a s} (h : d.readsOperands = false) : operandByte d k a s = (if k < d.length then peek s a else 0, s) := by
  unfold operandByte; rw [h]; split <;> rfl

/-- An operand byte that is read. -/
theorem operandByte_read {d : Descriptor} {k a s} (h : d.readsOperands = true) (hk : k < d.length) : operandByte d k a s = busRead a s := by
  unfold operandByte; rw [h, if_pos hk, if_pos rfl]

/-- No operand byte. -/
theorem operandByte_absent {d : Descriptor} {k a s} (hk : ¬ k < d.length) : operandByte d k a s = (0, s) := by
  unfold operandByte; rw [if_neg hk]

/-- How far the step advances. -/
theorem advance_assemble (op b1 b2 : Byte) : advance (assemble op b1 b2) = (descriptor op).consumed := by
  have h1 : (encode (assemble op b1 b2)).length = (descriptor op).length := by
    simp only [encode, assemble_opcode, assemble_operandBytes, List.length_cons, List.length_take]
    rcases descriptor_length op with hl | hl | hl <;> simp [hl]
  unfold advance Descriptor.consumed Instr.implemented
  rw [h1, assemble_opcode]

end Sys2Proof.Machine
end

