-- ==== Sys2Proof/Laws/Rom.lean ====
section
/-! SUPPORT. The bank of a program ROM, and the host's copy into program ROM. -/

namespace Sys2Proof.Machine

theorem bankOf_other {n : Nat} (h1 : n ≠ 0x4000) (h2 : n ≠ 0x8000) : bankOf n = none := by
  unfold bankOf; rw [if_neg (show ¬ n = Config.fullBank from h2), if_neg (show ¬ n = Config.halfBank from h1)]

theorem bankOf_size (k : Bank) : bankOf k.size = some k := by cases k <;> rfl

/-- What the copy of a program that fits does (R457): program ROM alone changes. -/
theorem copyToRom_eq (j : Nat) : ∀ (bs : List Byte) (k : Nat) (s : State) , k + bs.length ≤ s.bank.size →
   ∃ m, copyToRom (BitVec.ofNat 16 (0x8000 + k)) bs s = { s with prg := m } ∧
     (m.read j = if k ≤ j then (if h : j - k < bs.length then bs[j - k] else s.prg.read j) else s.prg.read j) ∧ (s.prg.wf s.bank.size = true → m.wf s.bank.size = true) := by
  intro bs
  induction bs with
  | nil => intro k s h; exact ⟨s.prg, rfl, by simp, id⟩
  | cons b bs ih =>
    intro k s h
    simp only [List.length_cons] at h
    have hsz : s.bank.size ≤ 0x8000 := by cases s.bank <;> decide
    have ho : romOffset s.bank (BitVec.ofNat 16 (0x8000 + k)) = k := by
      have e : (BitVec.ofNat 16 (0x8000 + k) - Config.romBase).toNat = k := by
        simp only [Config.romBase, BitVec.toNat_sub, BitVec.toNat_ofNat]; rw [show (32768 : BitVec 16).toNat = 32768 from rfl]; omega
      cases hb : s.bank
      · simp only [romOffset, e]; rw [hb] at h; apply Nat.mod_eq_of_lt; simp only [Bank.size] at h; omega
      · simp only [romOffset, e]
    obtain ⟨m, h1, h2, h3⟩ := ih (k + 1) (writeRom (BitVec.ofNat 16 (0x8000 + k)) b s) (by show _ ≤ s.bank.size; omega)
    refine ⟨m, ?_, ?_, ?_⟩
    · show copyToRom (BitVec.ofNat 16 (0x8000 + k) + 1) bs _ = _
      rw [show BitVec.ofNat 16 (0x8000 + k) + 1 = BitVec.ofNat 16 (0x8000 + (k + 1)) by
        apply BitVec.eq_of_toNat_eq; simp only [BitVec.toNat_add, BitVec.toNat_ofNat]; simp; omega, h1]
      rfl
    · rw [h2]
      have e : (writeRom (BitVec.ofNat 16 (0x8000 + k)) b s).prg = s.prg.write k b := by rw [writeRom, ho]; rfl
      rw [e, Memory.read_write]
      by_cases h4 : k ≤ j
      · rw [if_pos h4]
        by_cases h5 : j = k
        · subst h5; simp
        · rw [if_pos (by omega)]
          have h6 : j - k = (j - (k+1)) + 1 := by omega
          simp only [h6, List.length_cons, List.getElem_cons_succ, Nat.add_lt_add_iff_right, if_neg h5]
      · rw [if_neg h4, if_neg (by omega), if_neg (by omega)]
    · intro hw
      apply h3
      show (s.prg.write _ b).wf s.bank.size = true
      exact Memory.wf_write b (by rw [ho]; omega) hw

end Sys2Proof.Machine
end

