-- ==== Sys2Proof/Laws/RunLoop.lean ====
section
/-! SUPPORT. Runs without a bound (R433): more iterations change no end that was found, so an end, and what a host
operation returns, is one; and host operations compose. -/

namespace Sys2Proof.Machine

/-- What a step answers (R38): the recorded fault, or with none recorded a next state. No step refuses. -/
theorem step_answers (s : State) : (∃ f, s.fault = some f ∧ step s = .fault f) ∨ (s.fault = none ∧ ∃ t, step s = .next t) := by
  unfold step
  cases s.fault with
  | some f => exact .inl ⟨f, rfl, rfl⟩
  | none => exact .inr ⟨rfl, exec_answers_next _ _⟩

/-- How the step of an iteration ends a run (R433): at a recorded fault, or at BRK. -/
theorem stepOfIteration_ended {s t : State} {e : RunEnd} (h : stepOfIteration s = .ended e t) :
    (∃ f, e = .faulted f ∧ t.fault = some f) ∨ (e = .stopped ∧ t.stopped = true ∧ t.fault = none) := by
  unfold stepOfIteration at h
  obtain ⟨f, hf, hs⟩ | ⟨-, u, hs⟩ := step_answers s
  · simp only [hs, RunState.ended.injEq] at h
    obtain ⟨rfl, rfl⟩ := h
    exact .inl ⟨f, rfl, hf⟩
  · simp only [hs] at h
    cases hu : u.fault with
    | some f =>
      simp only [hu, RunState.ended.injEq] at h
      obtain ⟨rfl, rfl⟩ := h
      exact .inl ⟨f, rfl, hu⟩
    | none =>
      simp only [hu] at h
      split at h
      · simp only [RunState.ended.injEq] at h
        obtain ⟨rfl, rfl⟩ := h
        exact .inr ⟨rfl, ‹_›, hu⟩
      · cases h

/-- An iteration of `load_and_run`'s run, with no fault recorded (R434). -/
theorem iteration_quiet {s : State} (h : s.fault = none) :
    iteration quiet s = stepOfIteration (pollAndDeliver s) := by
  simp [iteration, h, quiet]

/-- Nothing is run in no iterations. -/
@[simp] theorem runFor_zero (f : State → State × Bool) (s : State) : runFor f 0 s = .running s := rfl

/-- One iteration more, where the first goes on. -/
theorem runFor_succ_running {f : State → State × Bool} {s t : State} (n : Nat) (h : iteration f s = .running t) :
    runFor f (n + 1) s = runFor f n t := by
  rw [runFor, h]

/-- An end in the first iteration is the end. -/
theorem runFor_succ_ended {f : State → State × Bool} {s t : State} {e : RunEnd} (n : Nat)
    (h : iteration f s = .ended e t) : runFor f (n + 1) s = .ended e t := by
  rw [runFor, h]

/-- A run that has ended stays ended, as it ended. -/
theorem runFor_ended_of_le {f : State → State × Bool} {e : RunEnd} {t : State} :
    ∀ {n m : Nat} {s : State}, n ≤ m → runFor f n s = .ended e t → runFor f m s = .ended e t := by
  intro n
  induction n with
  | zero => intro m s _ h; simp at h
  | succ n ih =>
    intro m s hm h
    obtain ⟨m, rfl⟩ : ∃ k, m = k + 1 := ⟨m - 1, by omega⟩
    cases hi : iteration f s with
    | running u =>
      rw [runFor_succ_running _ hi] at h ⊢
      exact ih (by omega) h
    | ended e' u =>
      rw [runFor_succ_ended _ hi] at h ⊢
      exact h

/-- A run has at most one end. -/
theorem RunEnds.unique {f : State → State × Bool} {s t t' : State} {e e' : RunEnd} (h : RunEnds f s e t)
    (h' : RunEnds f s e' t') : e = e' ∧ t = t' := by
  obtain ⟨n, hn⟩ := h
  obtain ⟨m, hm⟩ := h'
  have a := runFor_ended_of_le (Nat.le_max_left n m) hn
  have b := runFor_ended_of_le (Nat.le_max_right n m) hm
  simpa using a.symm.trans b

variable {r : Config.PReset}

/-- `load_and_run` returns a state exactly where its program fits and its run has ended there. -/
theorem loadAndRunReturn_next {bytes : List Byte} {n : Nat} {s t : State} :
    loadAndRunReturn r bytes n s = some (.next t) ↔
      ∃ u e, loadProgram bytes s = .next u ∧ runFor quiet n (resetCpu r u) = .ended e t := by
  unfold loadAndRunReturn loadAndRun
  cases loadProgram bytes s with
  | next u => cases hr : runFor quiet n (resetCpu r u) <;> simp [hr]
  | fault f => simp
  | refused e => simp

/-- What `load_and_run` has returned, it has returned in any more iterations. -/
theorem loadAndRunReturn_of_le {bytes : List Byte} {n m : Nat} {s : State} {o : Host.Outcome State Fault Refusal}
    (hm : n ≤ m) (h : loadAndRunReturn r bytes n s = some o) : loadAndRunReturn r bytes m s = some o := by
  unfold loadAndRunReturn loadAndRun at h ⊢
  cases hl : loadProgram bytes s with
  | next u =>
    simp only [hl] at h ⊢
    cases hr : runFor quiet n (resetCpu r u) with
    | running v => simp [hr] at h
    | ended e v => rw [runFor_ended_of_le hm hr]; simpa [hr] using h
  | fault f => simpa [hl] using h
  | refused e => simpa [hl] using h

/-- What an operation has returned, it has returned in any more iterations. -/
theorem HostOp.apply_of_le {op : HostOp} {n m : Nat} {s : State} {o : Host.Outcome State Fault Refusal}
    (hm : n ≤ m) (h : op.apply r n s = some o) : op.apply r m s = some o := by
  cases op with
  | loadAndRun bytes => exact loadAndRunReturn_of_le hm h
  | _ => exact h

/-- A host operation returns at most one outcome. -/
theorem HostOp.Returns.unique {op : HostOp} {s : State} {o o' : Host.Outcome State Fault Refusal}
    (h : op.Returns r s o) (h' : op.Returns r s o') : o = o' := by
  obtain ⟨n, hn⟩ := h
  obtain ⟨m, hm⟩ := h'
  have a := HostOp.apply_of_le (Nat.le_max_left n m) hn
  have b := HostOp.apply_of_le (Nat.le_max_right n m) hm
  exact Option.some.inj (a.symm.trans b)

/-- The operations before and after a state. -/
theorem runHostOps_append {n : Nat} {s t : State} {ops ops' : List HostOp} (h : runHostOps r n ops s = some t) :
    runHostOps r n (ops ++ ops') s = runHostOps r n ops' t := by
  induction ops generalizing s with
  | nil => simp only [runHostOps, Option.some.injEq] at h; rw [h]; rfl
  | cons op ops ih =>
    cases ho : op.apply r n s with
    | none => simp [runHostOps, ho] at h
    | some o =>
      simp only [runHostOps, ho, List.cons_append] at h ⊢
      exact ih h

/-- Operations that have all returned have in any more iterations. -/
theorem runHostOps_of_le {n m : Nat} {s t : State} {ops : List HostOp} (hm : n ≤ m)
    (h : runHostOps r n ops s = some t) : runHostOps r m ops s = some t := by
  induction ops generalizing s with
  | nil => exact h
  | cons op ops ih =>
    cases ho : op.apply r n s with
    | none => simp [runHostOps, ho] at h
    | some o =>
      simp only [runHostOps, ho, HostOp.apply_of_le hm ho] at h ⊢
      exact ih h

/-- No operation leads nowhere. -/
theorem HostReaches.refl (s : State) : HostReaches r s s := ⟨0, [], rfl⟩

/-- An operation that returns is a step of the way. -/
theorem HostReaches.of_returns {op : HostOp} {s : State} {o : Host.Outcome State Fault Refusal}
    (h : op.Returns r s o) : HostReaches r s (stateAfter s o) := by
  obtain ⟨n, hn⟩ := h
  exact ⟨n, [op], by simp [runHostOps, hn]⟩

/-- Operations compose. -/
theorem HostReaches.trans {s t u : State} (h : HostReaches r s t) (h' : HostReaches r t u) : HostReaches r s u := by
  obtain ⟨n, ops, hn⟩ := h
  obtain ⟨m, ops', hm⟩ := h'
  refine ⟨max n m, ops ++ ops', ?_⟩
  rw [runHostOps_append (runHostOps_of_le (Nat.le_max_left n m) hn)]
  exact runHostOps_of_le (Nat.le_max_right n m) hm

/-- The callback of `load_and_run` is one the spec allows. -/
theorem quiet_allowed : CallbackAllowed r quiet := fun s => HostReaches.refl s

end Sys2Proof.Machine
end

