-- ==== Sys2Proof/Laws/Unchanged.lean ====
section
/-! SUPPORT. What the instructions of each shape leave unchanged: a reading of the state that is stable under accesses,
charges and stores is unchanged by an instruction whose own effect leaves it unchanged. -/

namespace Sys2Proof.Machine

/-- A reading of the state that no access, charge, store to RAM or recorded fault changes. -/
structure Stable {α : Type} (φ : State → α) : Prop where
  charge : ∀ t d e c, φ { t with draws := d, events := e, cycles := c } = φ t
  ram : ∀ t m, φ (State.setRam m t) = φ t
  fault : ∀ t f, φ (State.raise f t) = φ t

namespace Stable
variable {α : Type} {φ : State → α}

theorem account (h : Stable φ) (i k n s) : φ (Machine.account i k n s) = φ s := h.charge s _ _ _

theorem operandState (h : Stable φ) (o s) : φ (Machine.operandState o s) = φ s :=
  operandState_unchanged φ o s (fun t d e => h.charge t d e t.cycles)

theorem resolve (h : Stable φ) (o s) : φ (Machine.resolve o s).state = φ s := by
  obtain ⟨d, e, k⟩ := resolve_effect o s
  rw [k]; exact h.charge s d e s.cycles

theorem busWrite (h : Stable φ) (a v s) : φ (Machine.busWrite a v s) = φ s :=
  busWrite_unchanged φ a v s h.ram h.fault (fun t d e => h.charge t d e t.cycles)

theorem writeThen (h : Stable φ) (a v) {k : State → State} (s) (hk : ∀ t, φ (k t) = φ t) : φ (Machine.writeThen a v k s) = φ s := by
  unfold Machine.writeThen; split
  · exact h.busWrite _ _ _
  · rw [hk]; exact h.busWrite _ _ _

theorem readInstr (h : Stable φ) {i o f} (s) (hf : ∀ v t, φ (f v t) = φ t) : φ (Machine.readInstr i o f s) = φ s := by
  rw [readInstr_eq, h.account, hf, h.operandState]

theorem writeInstr (h : Stable φ) {i o v} (s) (ho : o ≠ .acc) : φ (Machine.writeInstr i o v s) = φ s := by
  simp only [Machine.writeInstr, storeThen_memory _ _ _ _ ho]
  rw [h.writeThen _ _ _ (fun t => h.account _ _ _ t), h.resolve]

theorem modifyInstr (h : Stable φ) {i o f g} (s) (ha : ∀ v t, φ (State.setA v t) = φ t ∨ o ≠ .acc) (hg : ∀ v r t, φ (g v r t) = φ t) : φ (Machine.modifyInstr i o f g s) = φ s := by
  by_cases ho : o = .acc
  · subst ho
    rw [modifyInstr_acc, h.account, hg]
    rcases ha (f s.a s) s with k | k
    · exact k
    · exact absurd rfl k
  · simp only [Machine.modifyInstr, storeThen_memory _ _ _ _ ho]
    rw [h.writeThen _ _ _ (fun t => by rw [h.account, hg])]
    exact h.operandState o s

theorem plainInstr (h : Stable φ) {i f} (s) (hf : φ (f s) = φ s) : φ (Machine.plainInstr i f s) = φ s := by
  rw [Machine.plainInstr, h.account, hf]

theorem push8 (h : Stable φ) (v s) (hs : ∀ v t, φ (State.setSp v t) = φ t) : φ (Machine.push8 v s) = φ s := by
  rw [push8_eq, hs, h.ram]

theorem push16 (h : Stable φ) (v s) (hs : ∀ v t, φ (State.setSp v t) = φ t) : φ (Machine.push16 v s) = φ s := by
  rw [push16_eq, hs, h.ram]
end Stable

theorem Stable.writeInstr_setA {α : Type} {φ : State → α} (h : Stable φ) {i o v} (s) (ha : ∀ v t, φ (State.setA v t) = φ t) : φ (Machine.writeInstr i o v s) = φ s := by
  by_cases ho : o = .acc
  · subst ho
    exact (h.account _ _ _ _).trans (ha _ _)
  · exact h.writeInstr s ho

theorem Stable.branchInstr {α : Type} {φ : State → α} (h : Stable φ) {i b c} (s) (ha : ∀ v t, φ (State.setPc v t) = φ t) : φ (Machine.branchInstr i b c s) = φ s := by
  unfold Machine.branchInstr; split
  · exact (h.account _ _ _ _).trans (ha _ _)
  · exact h.account _ _ _ _

/-- Every flag is such a reading. -/
theorem Stable.flag (f : Flag) : Stable (fun s => s.flag f) := ⟨fun _ _ _ _ => rfl, fun _ _ => rfl, fun _ _ => rfl⟩

/-- Every register is. -/
theorem Stable.reg (r : Reg) : Stable (fun s => s.reg r) :=
  ⟨fun _ _ _ _ => by cases r <;> rfl, fun _ _ => by cases r <;> rfl, fun _ _ => by cases r <;> rfl⟩

/-- PC is. -/
theorem Stable.pc : Stable (fun s => s.pc) := ⟨fun _ _ _ _ => rfl, fun _ _ => rfl, fun _ _ => rfl⟩

/-- The stop signal is. -/
theorem Stable.stopped : Stable (fun s => s.stopped) := ⟨fun _ _ _ _ => rfl, fun _ _ => rfl, fun _ _ => rfl⟩

/-! A register under each update. -/

@[simp] theorem State.reg_setA (v s r) : (State.setA v s).reg r = if r = .a then v else s.reg r := by cases r <;> rfl

@[simp] theorem State.reg_setX (v s r) : (State.setX v s).reg r = if r = .x then v else s.reg r := by cases r <;> rfl

@[simp] theorem State.reg_setY (v s r) : (State.setY v s).reg r = if r = .y then v else s.reg r := by cases r <;> rfl

@[simp] theorem State.reg_setSp (v s r) : (State.setSp v s).reg r = if r = .sp then v else s.reg r := by cases r <;> rfl

@[simp] theorem State.reg_setPc (v s r) : (State.setPc v s).reg r = s.reg r := by cases r <;> rfl

@[simp] theorem State.reg_setP (v s r) : (State.setP v s).reg r = s.reg r := by cases r <;> rfl

@[simp] theorem State.reg_setNZ (v s r) : (State.setNZ v s).reg r = s.reg r := by cases r <;> rfl

@[simp] theorem State.reg_setFlag (f v s r) : (State.setFlag f v s).reg r = s.reg r := by cases r <;> rfl

@[simp] theorem State.reg_compare (f v s r) : (State.compare f v s).reg r = s.reg r := by cases r <;> rfl

@[simp] theorem State.reg_setStopped (v s r) : (State.setStopped v s).reg r = s.reg r := by cases r <;> rfl

@[simp] theorem State.reg_loadA (v s r) : (State.loadA v s).reg r = if r = .a then v else s.reg r := by cases r <;> rfl

@[simp] theorem State.reg_loadX (v s r) : (State.loadX v s).reg r = if r = .x then v else s.reg r := by cases r <;> rfl

@[simp] theorem State.reg_loadY (v s r) : (State.loadY v s).reg r = if r = .y then v else s.reg r := by cases r <;> rfl

@[simp] theorem State.reg_addWithCarry (v s r) : (State.addWithCarry v s).reg r = if r = .a then (addBytes s.a v (s.flag .c)).result else s.reg r := by cases r <;> rfl

end Sys2Proof.Machine
end

