-- ==== Sys2Proof/Tests/Slice0.lean ====
section
/-! SUPPORT. The model's own tests: ill-formed terms that WellFormed refuses, words written out from R150 and R126
that decode to their instructions, single steps whose results are the vectors of 95_test_vectors.md (each test
names its vectors), and for every statement with hypotheses a concrete state and operands that meet them. -/

namespace Sys2Proof.Tests

set_option Elab.async false

open Sys2Proof.Machine

/-! ### Helpers -/

/-- The defaults of a single-step vector (95_test_vectors.md section 0), PC apart. -/
def start : State := { State.reset with p := 0x24, cycles := 0, events := [] }

/-- The bytes of an instruction placed at an address, some cells placed, and PC at the instruction. -/
def placed (at_ : Word) (bytes : List Byte) (cells : List (Word × Byte)) (s : State) : State :=
  (cells.foldl (fun t c => placeByte c.1 c.2 t) (placeBytes at_ bytes s)).setPc at_

/-- What is seen of the next state of an outcome. -/
def seen {α : Type} (o : Host.Outcome State Fault Refusal) (f : State → α) : Option α :=
  match o with
  | .next t => some (f t)
  | .fault _ => none
  | .refused _ => none

/-- What is seen after one step of the instruction placed. -/
def run {α : Type} (at_ : Word) (bytes : List Byte) (cells : List (Word × Byte)) (s : State) (f : State → α) :
    Option α := seen (step (placed at_ bytes cells s)) f

/-- A next state that meets a test exists if the test is seen to hold. -/
theorem exists_next {o : Host.Outcome State Fault Refusal} {q : State → Prop} [DecidablePred q]
    (h : seen o (fun t => decide (q t)) = some true) : ∃ t, o = .next t ∧ q t := by
  cases o with
  | next t => exact ⟨t, rfl, by simpa [seen] using h⟩
  | fault _ => simp [seen] at h
  | refused _ => simp [seen] at h

/-! ### WellFormed refuses the ill-formed -/

/-- Each kind of check of `Instr.wellFormed` refuses a term: a mode no rule lists, an opcode byte of another rule. -/
theorem test_wf_read_modes :
    [Instr.lda .acc, .lda (.zpy 0), .ldx (.zpx 0), .ldx (.absx 0), .ldy (.zpy 0), .ldy (.indy 0), .adc .acc,
      .sbc (.rel 0), .cmp (.ind 0), .cpx (.zpx 0), .cpy (.absy 0), .and (.zpy 0), .ora .acc, .eor (.ind 0),
      .bit (.imm 0), .bit (.zpx 0), .lax (.imm 0), .lax (.absx 0)].all (fun i => i.wellFormed == false) = true := by
  decide +kernel

theorem test_wf_store_modes :
    [Instr.sta (.imm 0), .sta (.zpy 0), .stx (.zpx 0), .stx (.absy 0), .sty (.zpy 0), .sty (.absx 0), .sax (.zpx 0),
      .sax (.indy 0)].all (fun i => i.wellFormed == false) = true := by decide +kernel

theorem test_wf_modify_modes :
    [Instr.inc .acc, .inc (.absy 0), .dec (.imm 0), .dec (.indx 0), .asl (.absy 0), .lsr (.imm 0), .rol (.indx 0),
      .ror (.zpy 0), .slo .acc, .rla (.imm 0), .sre (.zpy 0), .rra .acc, .dcp (.imm 0), .isb (.rel 0),
      .ahx (.absx 0)].all (fun i => i.wellFormed == false) = true := by decide +kernel

theorem test_wf_opcode_bytes :
    [Instr.nopImp 0xEA, .nopImm 0x04 0, .nopMem 0x0C (.zp 0), .nopMem 0x14 (.zp 0), .nopMem 0x80 (.imm 0),
      .nopMem 0x1C (.absy 0), .anc 0x4B 0, .jam 0xA2].all (fun i => i.wellFormed == false) = true := by decide +kernel

/-! ### Decoding, from words written out from R150 (opcode map) and R126 (operand bytes) -/

theorem test_decode_load_store :
    decode [0xB5, 0x12] = .ok (.lda (.zpx 0x12), []) ∧ decode [0xB6, 0x12] = .ok (.ldx (.zpy 0x12), []) ∧
    decode [0xBC, 0x34, 0x12] = .ok (.ldy (.absx 0x1234), []) ∧
    decode [0x99, 0x34, 0x12] = .ok (.sta (.absy 0x1234), []) ∧
    decode [0x8E, 0x34, 0x12] = .ok (.stx (.abs 0x1234), []) ∧ decode [0x94, 0x12] = .ok (.sty (.zpx 0x12), []) ∧
    decode [0xAA] = .ok (.tax, []) ∧ decode [0xA8] = .ok (.tay, []) ∧ decode [0x8A] = .ok (.txa, []) ∧
    decode [0x98] = .ok (.tya, []) ∧ decode [0xBA] = .ok (.tsx, []) ∧ decode [0x9A] = .ok (.txs, []) := by
  refine ⟨rfl, rfl, rfl, rfl, rfl, rfl, rfl, rfl, rfl, rfl, rfl, rfl⟩

theorem test_decode_stack :
    decode [0x48] = .ok (.pha, []) ∧ decode [0x08] = .ok (.php, []) ∧ decode [0x68] = .ok (.pla, []) ∧
    decode [0x28] = .ok (.plp, []) := by refine ⟨rfl, rfl, rfl, rfl⟩

theorem test_decode_arithmetic :
    decode [0x61, 0x12] = .ok (.adc (.indx 0x12), []) ∧ decode [0xF1, 0x12] = .ok (.sbc (.indy 0x12), []) ∧
    decode [0xDD, 0x34, 0x12] = .ok (.cmp (.absx 0x1234), []) ∧ decode [0xE0, 0x12] = .ok (.cpx (.imm 0x12), []) ∧
    decode [0xC4, 0x12] = .ok (.cpy (.zp 0x12), []) ∧ decode [0xEE, 0x34, 0x12] = .ok (.inc (.abs 0x1234), []) ∧
    decode [0xD6, 0x12] = .ok (.dec (.zpx 0x12), []) ∧ decode [0xE8] = .ok (.inx, []) ∧
    decode [0xC8] = .ok (.iny, []) ∧ decode [0xCA] = .ok (.dex, []) ∧ decode [0x88] = .ok (.dey, []) := by
  refine ⟨rfl, rfl, rfl, rfl, rfl, rfl, rfl, rfl, rfl, rfl, rfl⟩

theorem test_decode_logic :
    decode [0x29, 0x12] = .ok (.and (.imm 0x12), []) ∧ decode [0x0D, 0x34, 0x12] = .ok (.ora (.abs 0x1234), []) ∧
    decode [0x41, 0x12] = .ok (.eor (.indx 0x12), []) ∧ decode [0x24, 0x12] = .ok (.bit (.zp 0x12), []) ∧
    decode [0x0A] = .ok (.asl .acc, []) ∧ decode [0x5E, 0x34, 0x12] = .ok (.lsr (.absx 0x1234), []) ∧
    decode [0x2A] = .ok (.rol .acc, []) ∧ decode [0x66, 0x12] = .ok (.ror (.zp 0x12), []) := by
  refine ⟨rfl, rfl, rfl, rfl, rfl, rfl, rfl, rfl⟩

theorem test_decode_control :
    decode [0x4C, 0x34, 0x12] = .ok (.jmpAbs 0x1234, []) ∧ decode [0x6C, 0x34, 0x12] = .ok (.jmpInd 0x1234, []) ∧
    decode [0x20, 0x34, 0x12] = .ok (.jsr 0x1234, []) ∧ decode [0x60] = .ok (.rts, []) ∧
    decode [0x40] = .ok (.rti, []) ∧ decode [0x10, 0x81] = .ok (.bpl 0x81, []) ∧
    decode [0x30, 0x81] = .ok (.bmi 0x81, []) ∧ decode [0x50, 0x81] = .ok (.bvc 0x81, []) ∧
    decode [0x70, 0x81] = .ok (.bvs 0x81, []) ∧ decode [0x90, 0x81] = .ok (.bcc 0x81, []) ∧
    decode [0xB0, 0x81] = .ok (.bcs 0x81, []) ∧ decode [0xD0, 0x81] = .ok (.bne 0x81, []) ∧
    decode [0xF0, 0x81] = .ok (.beq 0x81, []) ∧ decode [0x00] = .ok (.brk, []) ∧ decode [0xEA] = .ok (.nop, []) := by
  refine ⟨rfl, rfl, rfl, rfl, rfl, rfl, rfl, rfl, rfl, rfl, rfl, rfl, rfl, rfl, rfl⟩

theorem test_decode_flags :
    decode [0x18] = .ok (.clc, []) ∧ decode [0x38] = .ok (.sec, []) ∧ decode [0x58] = .ok (.cli, []) ∧
    decode [0x78] = .ok (.sei, []) ∧ decode [0xB8] = .ok (.clv, []) ∧ decode [0xD8] = .ok (.cld, []) ∧
    decode [0xF8] = .ok (.sed, []) := by refine ⟨rfl, rfl, rfl, rfl, rfl, rfl, rfl⟩

theorem test_decode_undocumented :
    decode [0x7A] = .ok (.nopImp 0x7A, []) ∧ decode [0x89, 0x12] = .ok (.nopImm 0x89 0x12, []) ∧
    decode [0xDC, 0x34, 0x12] = .ok (.nopMem 0xDC (.absx 0x1234), []) ∧
    decode [0x13, 0x12] = .ok (.slo (.indy 0x12), []) ∧ decode [0x3B, 0x34, 0x12] = .ok (.rla (.absy 0x1234), []) ∧
    decode [0x43, 0x12] = .ok (.sre (.indx 0x12), []) ∧ decode [0x77, 0x12] = .ok (.rra (.zpx 0x12), []) ∧
    decode [0x97, 0x12] = .ok (.sax (.zpy 0x12), []) ∧ decode [0xBF, 0x34, 0x12] = .ok (.lax (.absy 0x1234), []) ∧
    decode [0xC7, 0x12] = .ok (.dcp (.zp 0x12), []) ∧ decode [0xFF, 0x34, 0x12] = .ok (.isb (.absx 0x1234), []) ∧
    decode [0x2B, 0x12] = .ok (.anc 0x2B 0x12, []) ∧ decode [0x4B, 0x12] = .ok (.alr 0x12, []) ∧
    decode [0x6B, 0x12] = .ok (.arr 0x12, []) ∧ decode [0xCB, 0x12] = .ok (.axs 0x12, []) ∧
    decode [0xEB, 0x12] = .ok (.sbcEB 0x12, []) ∧ decode [0xBB, 0x34, 0x12] = .ok (.las 0x1234, []) := by
  refine ⟨rfl, rfl, rfl, rfl, rfl, rfl, rfl, rfl, rfl, rfl, rfl, rfl, rfl, rfl, rfl, rfl, rfl⟩

theorem test_decode_marked :
    decode [0x8B, 0x12] = .ok (.xaa 0x12, []) ∧ decode [0xAB, 0x12] = .ok (.lxa 0x12, []) ∧
    decode [0x93, 0x12] = .ok (.ahx (.indy 0x12), []) ∧ decode [0x9F, 0x34, 0x12] = .ok (.ahx (.absy 0x1234), []) ∧
    decode [0x9B, 0x34, 0x12] = .ok (.tas 0x1234, []) ∧ decode [0x9C, 0x34, 0x12] = .ok (.shy 0x1234, []) ∧
    decode [0x9E, 0x34, 0x12] = .ok (.shx 0x1234, []) ∧ decode [0x72] = .ok (.jam 0x72, []) := by
  refine ⟨rfl, rfl, rfl, rfl, rfl, rfl, rfl, rfl⟩

/-- Only missing bytes are refused, by name (R124). -/
theorem test_decode_refused :
    decode [] = .error .noOpcode ∧ decode [0xA9] = .error (.missingOperand 0xA9) ∧
    decode [0xAD, 0x34] = .error (.missingOperand 0xAD) := by refine ⟨rfl, rfl, rfl⟩

/-- The table's numbering: the first byte in bits 7..0, the bytes above `nbits` zero. -/
theorem test_decodeTableWord :
    decodeTableWord 24 0x1234AD = some (.lda (.abs 0x1234)) ∧ decodeTableWord 8 0x4C = some (.jmpAbs 0x0000) ∧
    decodeTableWord 8 0x02 = some (.jam 0x02) := by refine ⟨rfl, rfl, rfl⟩

/-- `withFetchWord`: the next step runs the instruction placed, as the first after reset, and from a PC at which
nothing can be placed. -/
theorem test_withFetchWord :
    seen (step (State.reset.withFetchWord 16 0x7FA9)) (fun t => (t.a, t.pc)) = some (0x7F, 0x0002) ∧
    seen (step ((start.setPc 0x5000).withFetchWord 8 0xE8)) (fun t => (t.x, t.pc)) = some (0x01, 0x8001) := by
  decide +kernel

/-! ### Single steps, against the vectors of 95_test_vectors.md -/

/-- LST1 (R200). -/
theorem test_lda :
    run 0x8000 [0xA9, 0x00] [] { start with a := 0x55 } (fun t => (t.a, t.p, t.pc, t.cycles)) = some (0x00, 0x26, 0x8002, 2) := by decide +kernel

/-- AM7, AM8, AM9, AM10 (R136, R151, R137, R138). -/
theorem test_lda_modes :
    run 0x8000 [0xBD, 0xF0, 0x01] [(0x0210, 0x22)] { start with x := 0x20 } (fun t => (t.a, t.pc, t.cycles)) = some (0x22, 0x8003, 5) ∧
    run 0x8000 [0xBD, 0xFF, 0xFF] [(0x0001, 0x33)] { start with x := 0x02 } (fun t => (t.a, t.pc, t.cycles)) = some (0x33, 0x8003, 5) ∧
    run 0x8000 [0xA1, 0xFE] [(0x0000, 0x03), (0x00FF, 0x00), (0x0300, 0x44)] { start with x := 0x01 } (fun t => (t.a, t.pc, t.cycles)) = some (0x44, 0x8002, 6) ∧
    run 0x8000 [0xB1, 0xFF] [(0x0000, 0x02), (0x00FF, 0xF8), (0x0308, 0x77)] { start with y := 0x10 } (fun t => (t.a, t.pc, t.cycles)) = some (0x77, 0x8002, 6) := by decide +kernel

/-- AM4 (R135). -/
theorem test_ldx :
    run 0x8000 [0xB6, 0xFF] [(0x0001, 0x66)] { start with y := 0x02 } (fun t => (t.x, t.pc, t.cycles)) = some (0x66, 0x8002, 4) := by decide +kernel

/-- LST4 (R202). -/
theorem test_ldy :
    run 0x8000 [0xA0, 0x7F] [] { start with p := 0xA6 } (fun t => (t.y, t.p, t.pc, t.cycles)) = some (0x7F, 0x24, 0x8002, 2) := by decide +kernel

/-- AM12 (R136, R151). -/
theorem test_sta :
    run 0x8000 [0x9D, 0xFF, 0x02] [] { start with a := 0x5A, x := 0x01 } (fun t => (t.pc, peek t 0x0300, t.cycles)) = some (0x8003, 0x5A, 5) := by decide +kernel

/-- LST6 (R204). -/
theorem test_stx :
    run 0x8000 [0x96, 0xFF] [] { start with x := 0x12, y := 0x01 } (fun t => (t.pc, peek t 0x0000, t.cycles)) = some (0x8002, 0x12, 4) := by decide +kernel

/-- LST7 (R205). -/
theorem test_sty :
    run 0x0300 [0x8C, 0x00, 0x80] [] { start with y := 0x34 } (fun t => (t.pc, t.fault, t.cycles)) = some (0x0303, some (.illegalRomWrite 0x8000 0x34), 0) := by decide +kernel

/-- BUS3, BUS7, BUS10, BUS13 (R85, R86, R83, R90, R89, R402). -/
theorem test_sta_io :
    run 0x8000 [0x8D, 0x08, 0x20] [] { start with a := 0x80 } (fun t => (t.pc, t.cycles, t.events)) = some (0x8003, 4, [.videoTick 12, .videoWrite 0x2000 0x80]) ∧
    run 0x8000 [0x8D, 0x16, 0x40] [] { start with a := 0x01 } (fun t => (t.pc, t.cycles, t.events)) = some (0x8003, 4, [.videoTick 12, .ctrlWrite 0x01]) ∧
    run 0x8000 [0x8D, 0x00, 0x50] [] { start with a := 0x12 } (fun t => (t.pc, t.cycles)) = some (0x8003, 4) ∧
    run 0x0200 [0x8D, 0x00, 0x80] [] { start with a := 0x34 } (fun t => (t.pc, t.fault, t.cycles)) = some (0x0203, some (.illegalRomWrite 0x8000 0x34), 0) := by decide +kernel

/-- LST8 (R206). -/
theorem test_tax :
    run 0x8000 [0xAA] [] { start with a := 0x00, x := 0x05 } (fun t => (t.x, t.p, t.pc, t.cycles)) = some (0x00, 0x26, 0x8001, 2) := by decide +kernel

/-- LST9 (R207). -/
theorem test_tay :
    run 0x8000 [0xA8] [] { start with a := 0x90 } (fun t => (t.y, t.p, t.pc, t.cycles)) = some (0x90, 0xA4, 0x8001, 2) := by decide +kernel

/-- LST10 (R208). -/
theorem test_txa :
    run 0x8000 [0x8A] [] { start with a := 0x80, x := 0x01 } (fun t => (t.a, t.pc, t.cycles)) = some (0x01, 0x8001, 2) := by decide +kernel

/-- LST11 (R209). -/
theorem test_tya :
    run 0x8000 [0x98] [] { start with y := 0xFF } (fun t => (t.a, t.p, t.pc, t.cycles)) = some (0xFF, 0xA4, 0x8001, 2) := by decide +kernel

/-- LST12 (R210). -/
theorem test_tsx :
    run 0x8000 [0xBA] [] start (fun t => (t.x, t.p, t.pc, t.cycles)) = some (0xFD, 0xA4, 0x8001, 2) := by decide +kernel

/-- LST13 (R211). -/
theorem test_txs :
    run 0x8000 [0x9A] [] { start with x := 0x00, p := 0xA4 } (fun t => (t.sp, t.pc, t.cycles)) = some (0x00, 0x8001, 2) := by decide +kernel

/-- STK2 (R230, R104). -/
theorem test_pha :
    run 0x8000 [0x48] [] { start with a := 0x42, sp := 0x00 } (fun t => (t.sp, t.pc, peek t 0x0100, t.cycles)) = some (0xFF, 0x8001, 0x42, 3) := by decide +kernel

/-- STK3 (R231). -/
theorem test_php :
    run 0x8000 [0x08] [] { start with sp := 0xFA, p := 0x26 } (fun t => (t.sp, t.pc, peek t 0x01FA, t.cycles)) = some (0xF9, 0x8001, 0x36, 3) := by decide +kernel

/-- STK5 (R232, R104). -/
theorem test_pla :
    run 0x8000 [0x68] [(0x0100, 0x80)] { start with sp := 0xFF } (fun t => (t.a, t.sp, t.p, t.pc, t.cycles)) = some (0x80, 0x00, 0xA4, 0x8001, 4) := by decide +kernel

/-- STK6 (R233). -/
theorem test_plp :
    run 0x8000 [0x28] [(0x01FD, 0xFF)] { start with sp := 0xFC } (fun t => (t.sp, t.p, t.pc, t.cycles)) = some (0xFD, 0xEF, 0x8001, 4) := by decide +kernel

/-- STK7 (R233). -/
theorem test_plp_clear :
    run 0x8000 [0x28] [(0x01FD, 0x00)] { start with sp := 0xFC, p := 0xFF } (fun t => (t.sp, t.p, t.pc, t.cycles)) = some (0xFD, 0x20, 0x8001, 4) := by decide +kernel

/-- ARI2 (R241). -/
theorem test_adc :
    run 0x8000 [0x69, 0x01] [] { start with a := 0x7F } (fun t => (t.a, t.p, t.pc, t.cycles)) = some (0x80, 0xE4, 0x8002, 2) := by decide +kernel

/-- ARI4 (R241). -/
theorem test_adc_carry_in :
    run 0x8000 [0x69, 0xFF] [] { start with a := 0xFF, p := 0x25 } (fun t => (t.p, t.pc, t.cycles)) = some (0xA5, 0x8002, 2) := by decide +kernel

/-- ARI7 (R242). -/
theorem test_sbc :
    run 0x8000 [0xE9, 0x00] [] { start with a := 0xFF } (fun t => (t.a, t.p, t.pc, t.cycles)) = some (0xFE, 0xA5, 0x8002, 2) := by decide +kernel

/-- ARI9 (R242). -/
theorem test_sbc_overflow :
    run 0x8000 [0xE9, 0x01] [] { start with a := 0x80, p := 0x25 } (fun t => (t.a, t.p, t.pc, t.cycles)) = some (0x7F, 0x65, 0x8002, 2) := by decide +kernel

/-- ARI14 (R244). -/
theorem test_cmp :
    run 0x8000 [0xC9, 0x00] [] { start with a := 0x80 } (fun t => (t.p, t.pc, t.cycles)) = some (0xA5, 0x8002, 2) := by decide +kernel

/-- ARI15 (R245). -/
theorem test_cpx :
    run 0x8000 [0xE0, 0x05] [] { start with x := 0x05 } (fun t => (t.p, t.pc, t.cycles)) = some (0x27, 0x8002, 2) := by decide +kernel

/-- ARI16 (R246). -/
theorem test_cpy :
    run 0x8000 [0xC0, 0x01] [] { start with y := 0x00 } (fun t => (t.p, t.pc, t.cycles)) = some (0xA4, 0x8002, 2) := by decide +kernel

/-- ARI18 (R247, R151). -/
theorem test_inc :
    run 0x8000 [0xFE, 0xFF, 0x02] [(0x0300, 0x7F)] { start with x := 0x01 } (fun t => (t.p, t.pc, peek t 0x0300, t.cycles)) = some (0xA4, 0x8003, 0x80, 7) := by decide +kernel

/-- ARI19 (R247, R403). -/
theorem test_inc_fault :
    run 0x0400 [0xEE, 0x00, 0x90] [] { start with p := 0x26 } (fun t => (t.pc, t.fault, t.cycles)) = some (0x0403, some (.illegalRomWrite 0x9000 0x01), 0) := by decide +kernel

/-- ARI20 (R248). -/
theorem test_dec :
    run 0x8000 [0xC6, 0x20] [(0x0020, 0x00)] start (fun t => (t.p, t.pc, peek t 0x0020, t.cycles)) = some (0xA4, 0x8002, 0xFF, 5) := by decide +kernel

/-- ARI21 (R249). -/
theorem test_inx :
    run 0x8000 [0xE8] [] { start with x := 0xFF } (fun t => (t.x, t.p, t.pc, t.cycles)) = some (0x00, 0x26, 0x8001, 2) := by decide +kernel

/-- ARI22 (R250). -/
theorem test_iny :
    run 0x8000 [0xC8] [] { start with y := 0x00 } (fun t => (t.y, t.pc, t.cycles)) = some (0x01, 0x8001, 2) := by decide +kernel

/-- ARI23 (R251). -/
theorem test_dex :
    run 0x8000 [0xCA] [] { start with x := 0x01 } (fun t => (t.x, t.p, t.pc, t.cycles)) = some (0x00, 0x26, 0x8001, 2) := by decide +kernel

/-- ARI25 (R252). -/
theorem test_dey :
    run 0x8000 [0x88] [] { start with y := 0x00 } (fun t => (t.y, t.p, t.pc, t.cycles)) = some (0xFF, 0xA4, 0x8001, 2) := by decide +kernel

/-- LOG1 (R270). -/
theorem test_and :
    run 0x8000 [0x29, 0x0F] [] { start with a := 0xF0 } (fun t => (t.a, t.p, t.pc, t.cycles)) = some (0x00, 0x26, 0x8002, 2) := by decide +kernel

/-- LOG2 (R271). -/
theorem test_ora :
    run 0x8000 [0x09, 0x80] [] { start with a := 0x01 } (fun t => (t.a, t.p, t.pc, t.cycles)) = some (0x81, 0xA4, 0x8002, 2) := by decide +kernel

/-- LOG3 (R272). -/
theorem test_eor :
    run 0x8000 [0x49, 0xFF] [] { start with a := 0xFF } (fun t => (t.a, t.p, t.pc, t.cycles)) = some (0x00, 0x26, 0x8002, 2) := by decide +kernel

/-- LOG4 (R273). -/
theorem test_bit :
    run 0x8000 [0x24, 0x10] [(0x0010, 0xC0)] { start with a := 0x01 } (fun t => (t.p, t.pc, t.cycles)) = some (0xE6, 0x8002, 3) := by decide +kernel

/-- LOG7 (R274). -/
theorem test_asl :
    run 0x8000 [0x0A] [] { start with a := 0x80 } (fun t => (t.a, t.p, t.pc, t.cycles)) = some (0x00, 0x27, 0x8001, 2) := by decide +kernel

/-- LOG9 (R274, R403). -/
theorem test_asl_fault :
    run 0x0500 [0x0E, 0x00, 0xC0] [] { start with p := 0x24 } (fun t => (t.pc, t.fault, t.cycles)) = some (0x0503, some (.illegalRomWrite 0xC000 0x00), 0) := by decide +kernel

/-- LOG10 (R275). -/
theorem test_lsr :
    run 0x8000 [0x4A] [] { start with a := 0x03 } (fun t => (t.a, t.p, t.pc, t.cycles)) = some (0x01, 0x25, 0x8001, 2) := by decide +kernel

/-- LOG12 (R276). -/
theorem test_rol :
    run 0x8000 [0x2A] [] { start with a := 0x40, p := 0x25 } (fun t => (t.a, t.p, t.pc, t.cycles)) = some (0x81, 0xA4, 0x8001, 2) := by decide +kernel

/-- LOG14 (R277). -/
theorem test_ror :
    run 0x8000 [0x6A] [] { start with a := 0x02, p := 0x25 } (fun t => (t.a, t.p, t.pc, t.cycles)) = some (0x81, 0xA4, 0x8001, 2) := by decide +kernel

/-- LOG16 (R277). -/
theorem test_ror_memory :
    run 0x8000 [0x76, 0x10] [(0x0011, 0x01)] { start with x := 0x01, p := 0x25 } (fun t => (t.p, t.pc, peek t 0x0011, t.cycles)) = some (0xA5, 0x8002, 0x80, 6) := by decide +kernel

/-- CTL1 (R290). -/
theorem test_jmpAbs :
    run 0x8000 [0x4C, 0x34, 0x12] [] start (fun t => (t.pc, t.cycles)) = some (0x1234, 3) := by decide +kernel

/-- CTL2 (R291). -/
theorem test_jmpInd :
    run 0x8000 [0x6C, 0xFF, 0x00] [(0x0000, 0x11), (0x00FF, 0x10), (0x0100, 0x22)] start (fun t => (t.pc, t.cycles)) = some (0x1110, 5) := by decide +kernel

/-- CTL4 (R292, R104). -/
theorem test_jsr :
    run 0x8000 [0x20, 0x00, 0x90] [] { start with sp := 0x00 } (fun t => (t.sp, t.pc, peek t 0x0100, peek t 0x01FF, t.cycles)) = some (0xFE, 0x9000, 0x80, 0x02, 6) := by decide +kernel

/-- CTL5 (R293). -/
theorem test_rts :
    run 0x800D [0x60] [(0x01FB, 0x05), (0x01FC, 0x80)] { start with sp := 0xFA } (fun t => (t.sp, t.pc, t.cycles)) = some (0xFC, 0x8006, 6) := by decide +kernel

/-- CTL6 (R295). -/
theorem test_rti :
    run 0x9001 [0x40] [(0x01FB, 0x30), (0x01FC, 0x03), (0x01FD, 0x80)] { start with sp := 0xFA } (fun t => (t.sp, t.p, t.pc, t.cycles)) = some (0xFD, 0x20, 0x8003, 6) := by decide +kernel

/-- CTL7 (R296). -/
theorem test_bpl :
    run 0x8000 [0x10, 0x02] [] start (fun t => (t.pc, t.cycles)) = some (0x8004, 3) := by decide +kernel

/-- CTL8 (R297). -/
theorem test_bmi :
    run 0x8000 [0x30, 0x02] [] start (fun t => (t.pc, t.cycles)) = some (0x8002, 2) := by decide +kernel

/-- CTL9 (R298). -/
theorem test_bvc :
    run 0x80F0 [0x50, 0x7F] [] start (fun t => (t.pc, t.cycles)) = some (0x8171, 4) := by decide +kernel

/-- CTL10 (R299). -/
theorem test_bvs :
    run 0x8000 [0x70, 0x00] [] { start with p := 0x64 } (fun t => (t.pc, t.cycles)) = some (0x8002, 3) := by decide +kernel

/-- CTL11 (R300). -/
theorem test_bcc :
    run 0x8000 [0x90, 0xFE] [] start (fun t => (t.pc, t.cycles)) = some (0x8000, 3) := by decide +kernel

/-- CTL12 (R301). -/
theorem test_bcs :
    run 0x8000 [0xB0, 0x80] [] { start with p := 0x25 } (fun t => (t.pc, t.cycles)) = some (0x7F82, 4) := by decide +kernel

/-- CTL15 (R294). -/
theorem test_bne :
    run 0x80FE [0xD0, 0xFE] [] start (fun t => (t.pc, t.cycles)) = some (0x80FE, 4) := by decide +kernel

/-- CTL16 (R294). -/
theorem test_bne_same_page :
    run 0x80FE [0xD0, 0x00] [] start (fun t => (t.pc, t.cycles)) = some (0x8100, 3) := by decide +kernel

/-- CTL14 (R303). -/
theorem test_beq :
    run 0xFFF0 [0xF0, 0x10] [] { start with p := 0x26 } (fun t => (t.pc, t.cycles)) = some (0x0002, 4) := by decide +kernel

/-- CTL17 (R304). -/
theorem test_brk :
    run 0x800C [0x00] [] start (fun t => (t.p, t.pc, t.stopped, t.cycles)) = some (0x34, 0x800D, true, 7) := by decide +kernel

/-- CTL18 (R305). -/
theorem test_nop :
    run 0x8008 [0xEA] [] start (fun t => (t.pc, t.cycles)) = some (0x8009, 2) := by decide +kernel

/-- FLG1 (R320). -/
theorem test_clc :
    run 0x8000 [0x18] [] { start with p := 0x25 } (fun t => (t.p, t.pc, t.cycles)) = some (0x24, 0x8001, 2) := by decide +kernel

/-- FLG2 (R321). -/
theorem test_sec :
    run 0x8000 [0x38] [] { start with p := 0x24 } (fun t => (t.p, t.pc, t.cycles)) = some (0x25, 0x8001, 2) := by decide +kernel

/-- FLG3 (R322). -/
theorem test_cli :
    run 0x8000 [0x58] [] { start with p := 0x34 } (fun t => (t.p, t.pc, t.cycles)) = some (0x30, 0x8001, 2) := by decide +kernel

/-- FLG4 (R323). -/
theorem test_sei :
    run 0x8000 [0x78] [] { start with p := 0x20 } (fun t => (t.p, t.pc, t.cycles)) = some (0x24, 0x8001, 2) := by decide +kernel

/-- FLG5 (R324). -/
theorem test_clv :
    run 0x8000 [0xB8] [] { start with p := 0x64 } (fun t => (t.p, t.pc, t.cycles)) = some (0x24, 0x8001, 2) := by decide +kernel

/-- FLG6 (R325). -/
theorem test_cld :
    run 0x8000 [0xD8] [] { start with p := 0x2C } (fun t => (t.p, t.pc, t.cycles)) = some (0x24, 0x8001, 2) := by decide +kernel

/-- FLG7 (R326). -/
theorem test_sed :
    run 0x8000 [0xF8] [] { start with p := 0x24 } (fun t => (t.p, t.pc, t.cycles)) = some (0x2C, 0x8001, 2) := by decide +kernel

/-- UND1 (R331). -/
theorem test_nopImp :
    run 0x8000 [0x1A] [] start (fun t => (t.pc, t.cycles)) = some (0x8001, 2) := by decide +kernel

/-- UND2 (R332). -/
theorem test_nopImm :
    run 0x8000 [0x80, 0xFF] [] start (fun t => (t.pc, t.cycles)) = some (0x8002, 2) := by decide +kernel

/-- UND4 (R333). -/
theorem test_nopMem :
    run 0x8000 [0x0C, 0x02, 0x20] [] start (fun t => (t.pc, t.cycles, t.events)) = some (0x8003, 4, [.videoTick 12, .videoRead 0x2002]) := by decide +kernel

/-- UND5 (R333). -/
theorem test_nopMem_page :
    run 0x8000 [0x1C, 0xFF, 0x80] [] { start with x := 0x01 } (fun t => (t.pc, t.cycles)) = some (0x8003, 5) := by decide +kernel

/-- UND6 (R334). -/
theorem test_slo :
    run 0x8000 [0x07, 0x10] [(0x0010, 0x81)] start (fun t => (t.a, t.p, t.pc, peek t 0x0010, t.cycles)) = some (0x02, 0x25, 0x8002, 0x02, 5) := by decide +kernel

/-- UND21 (R334, R330). -/
theorem test_slo_fault :
    run 0x0600 [0x0F, 0x00, 0x80] [] { start with a := 0x00, p := 0x24 } (fun t => (t.pc, t.fault, t.cycles)) = some (0x0603, some (.illegalRomWrite 0x8000 0x00), 0) := by decide +kernel

/-- UND7 (R335). -/
theorem test_rla :
    run 0x8000 [0x27, 0x10] [(0x0010, 0x81)] { start with a := 0xFF } (fun t => (t.a, t.p, t.pc, peek t 0x0010, t.cycles)) = some (0x02, 0x25, 0x8002, 0x02, 5) := by decide +kernel

/-- UND8 (R336). -/
theorem test_sre :
    run 0x8000 [0x47, 0x10] [(0x0010, 0x03)] { start with a := 0x01 } (fun t => (t.a, t.p, t.pc, peek t 0x0010, t.cycles)) = some (0x00, 0x27, 0x8002, 0x01, 5) := by decide +kernel

/-- UND9 (R337). -/
theorem test_rra :
    run 0x8000 [0x67, 0x10] [(0x0010, 0x02)] { start with a := 0x10, p := 0x25 } (fun t => (t.a, t.p, t.pc, peek t 0x0010, t.cycles)) = some (0x91, 0xA4, 0x8002, 0x81, 5) := by decide +kernel

/-- UND10 (R338). -/
theorem test_sax :
    run 0x8000 [0x87, 0x10] [] { start with a := 0xF0, x := 0x3C } (fun t => (t.pc, peek t 0x0010, t.cycles)) = some (0x8002, 0x30, 3) := by decide +kernel

/-- UND11 (R339). -/
theorem test_lax :
    run 0x8000 [0xA7, 0x10] [(0x0010, 0x80)] start (fun t => (t.a, t.x, t.p, t.pc, t.cycles)) = some (0x80, 0x80, 0xA4, 0x8002, 3) := by decide +kernel

/-- UND12 (R340). -/
theorem test_dcp :
    run 0x8000 [0xC7, 0x10] [(0x0010, 0x01)] start (fun t => (t.p, t.pc, peek t 0x0010, t.cycles)) = some (0x27, 0x8002, 0x00, 5) := by decide +kernel

/-- UND13 (R341). -/
theorem test_isb :
    run 0x8000 [0xE7, 0x10] [(0x0010, 0xFF)] { start with a := 0x05, p := 0x25 } (fun t => (t.pc, peek t 0x0010, t.cycles)) = some (0x8002, 0x00, 5) := by decide +kernel

/-- UND14 (R342). -/
theorem test_anc :
    run 0x8000 [0x0B, 0xFF] [] { start with a := 0x80 } (fun t => (t.p, t.pc, t.cycles)) = some (0xA5, 0x8002, 2) := by decide +kernel

/-- UND15 (R343). -/
theorem test_alr :
    run 0x8000 [0x4B, 0x01] [] { start with a := 0x03 } (fun t => (t.a, t.p, t.pc, t.cycles)) = some (0x00, 0x27, 0x8002, 2) := by decide +kernel

/-- UND16 (R344). -/
theorem test_arr :
    run 0x8000 [0x6B, 0xFF] [] { start with a := 0x80 } (fun t => (t.a, t.p, t.pc, t.cycles)) = some (0x40, 0x65, 0x8002, 2) := by decide +kernel

/-- UND18 (R345). -/
theorem test_axs :
    run 0x8000 [0xCB, 0x40] [] { start with a := 0xF0, x := 0x3C } (fun t => (t.x, t.p, t.pc, t.cycles)) = some (0xF0, 0xA4, 0x8002, 2) := by decide +kernel

/-- UND19 (R346). -/
theorem test_sbcEB :
    run 0x8000 [0xEB, 0x00] [] { start with a := 0xFF } (fun t => (t.a, t.p, t.pc, t.cycles)) = some (0xFE, 0xA5, 0x8002, 2) := by decide +kernel

/-- UND20 (R347). -/
theorem test_las :
    run 0x8000 [0xBB, 0xFF, 0x02] [(0x0300, 0xF0)] { start with y := 0x01 } (fun t => (t.a, t.x, t.sp, t.p, t.pc, t.cycles)) = some (0xF0, 0xF0, 0xF0, 0xA4, 0x8003, 5) := by decide +kernel

/-- UND22 (R354). -/
theorem test_jam :
    run 0x8000 [0x02] [] start (fun t => (t.pc, t.fault, t.cycles)) = some (0x8001, some (.unimplementedOpcode 0x02 0x8000), 0) := by decide +kernel

/-- UND23 (R348). -/
theorem test_xaa :
    run 0x8000 [0x8B, 0xFF] [] { start with a := 0x11 } (fun t => (t.pc, t.fault, t.cycles)) = some (0x8001, some (.unimplementedOpcode 0x8B 0x8000), 0) := by decide +kernel

/-- UND24 (R353). -/
theorem test_shx :
    run 0x8000 [0x9E, 0x00, 0x02] [] start (fun t => (t.pc, t.fault, t.cycles)) = some (0x8001, some (.unimplementedOpcode 0x9E 0x8000), 0) := by decide +kernel

/-- The opcodes of R349 to R352 without a vector of their own: as UND23 and UND24. -/
theorem test_marked :
    run 0x8000 [0xAB, 0xFF] [] start (fun t => (t.pc, t.fault, t.cycles)) = some (0x8001, some (.unimplementedOpcode 0xAB 0x8000), 0) ∧
    run 0x8000 [0x93, 0x10] [] start (fun t => (t.pc, t.fault, t.cycles)) = some (0x8001, some (.unimplementedOpcode 0x93 0x8000), 0) ∧
    run 0x8000 [0x9F, 0x00, 0x02] [] start (fun t => (t.pc, t.fault, t.cycles)) = some (0x8001, some (.unimplementedOpcode 0x9F 0x8000), 0) ∧
    run 0x8000 [0x9B, 0x00, 0x02] [] start (fun t => (t.pc, t.fault, t.cycles)) = some (0x8001, some (.unimplementedOpcode 0x9B 0x8000), 0) ∧
    run 0x8000 [0x9C, 0x00, 0x02] [] start (fun t => (t.pc, t.fault, t.cycles)) = some (0x8001, some (.unimplementedOpcode 0x9C 0x8000), 0) := by
  decide +kernel

/-! ### The system vectors (95_test_vectors.md section 3) -/

/-- SYS2 (R451, R457): load of one NOP, then reset. -/
theorem test_load_and_reset :
    seen (loadProgram [0xEA] start) (fun t => (t.prg.read 0x7FFC, t.prg.read 0x7FFD)) = some (0x00, 0x80) ∧
    seen (loadProgram [0xEA] start) (fun t => ((resetCpu .bSet t).pc, (resetCpu .bSet t).p, (resetCpu .bSet t).cycles)) =
      some (0x8000, 0x34, 7) := by decide +kernel

/-- R451, U9: the alternative value of P_RESET, B clear. -/
theorem test_reset_bClear : (resetCpu .bClear start).p = 0x24 ∧ (newCpu .bClear start).p = 0x24 := by decide +kernel

/-- SYS3 (R88, R453): a half bank answers at both halves of the window. -/
theorem test_half_bank :
    let s : State := { start with bank := .half, prg := [(0, 0xA5), (0x3FFD, 0xC0)] }
    (resetCpu .bSet s).pc = 0xC000 ∧ (busRead 0x8000 s).1 = 0xA5 ∧ (busRead 0xC000 s).1 = 0xA5 := by decide +kernel

/-- SYS4 (R412): an NMI entry. -/
theorem test_nmi_entry :
    let t := deliver .nmi { placed 0x8003 [0xEA] [(0xFFFB, 0x90)] start with p := 0x20 }
    peek t 0x01FD = 0x80 ∧ peek t 0x01FC = 0x03 ∧ peek t 0x01FB = 0x30 ∧ t.sp = 0xFA ∧ t.p = 0x24 ∧
    t.pc = 0x9000 ∧ t.cycles = 2 ∧ t.events = [.videoTick 6] ∧ t.pending = some .nmi := by
  decide +kernel

/-- SYS5, SYS6 (R295, R417, R416): the RTI after it, and the acknowledgement. -/
theorem test_rti_and_acknowledge :
    let s := deliver .nmi { placed 0x8003 [0xEA] [(0xFFFB, 0x90), (0x9000, 0x40)] start with p := 0x20 }
    seen (step s) (fun t => (t.p, t.pc, t.sp, t.cycles)) = some (0x20, 0x8003, 0xFD, 8) ∧
    seen (step s) (fun t => t.pending) = some (some .nmi) ∧ (acknowledge s).pending = none := by decide +kernel

/-- SYS9, SYS10 (R403, R452, R430): a fault ends the run, and a reset keeps it recorded. -/
theorem test_fault_ends_run :
    let f : Fault := .unimplementedOpcode 0x02 0x8000
    stepOfIteration (placed 0x8000 [0x02] [] start) =
      .ended (.faulted f) { placed 0x8001 [] [] (placed 0x8000 [0x02] [] start) with fault := some f } ∧
    iteration quiet (resetCpu .bSet { start with fault := some f }) =
      .ended (.faulted f) (resetCpu .bSet { start with fault := some f }) := by decide +kernel

/-- R433, R434: no iterations give no return; with a fault recorded the first test ends the run. -/
theorem test_loadAndRun_faulted :
    let s : State := { start with fault := some (.unimplementedOpcode 0x02 0x8000) }
    (HostOp.loadAndRun [0x02]).apply .bSet 0 s = none ∧
    ((HostOp.loadAndRun [0x02]).apply .bSet 1 s).map (fun o => seen o (fun t => (t.pc, t.cycles))) =
      some (some (0x8000, 7)) := ⟨rfl, by decide +kernel⟩

/-- The interrupt part of an iteration, with the answers given. -/
def answeredPoll (nmi irq : Bool) (s : State) : State :=
  let polled := s.drawn.record .videoNmiPoll
  if nmi then deliver .nmi polled
  else if irq && !s.flag .i then deliver .irq polled.drawn else polled.drawn

/-- The state in which `load_and_run` of one BRK begins its run. -/
def loadedBrk : State := resetCpu .bSet (writeRom 0xFFFD 0x80 (writeRom 0xFFFC 0x00 (writeRom 0x8000 0x00 start)))

/-- R434: a program of one BRK returns, whatever the NMI poll answers: in zero memory the NMI vector leads to a BRK
too, and I masks IRQ. -/
theorem test_loadAndRun_returns :
    ∃ t, (HostOp.loadAndRun [0x00]).Returns .bSet start (.next t) ∧ t.stopped = true := by
  have poll : pollAndDeliver loadedBrk =
      answeredPoll (Config.nmiAnswer loadedBrk.draws) (Config.irqAnswer (loadedBrk.draws + 1)) loadedBrk := rfl
  have stops : ∀ n q, ∃ t, step (answeredPoll n q loadedBrk) = .next t ∧ t.fault = none ∧ t.stopped = true := by
    intro n q
    cases n <;> cases q <;> exact exists_next (by decide +kernel)
  obtain ⟨t, ht, hf, hs⟩ := stops (Config.nmiAnswer loadedBrk.draws) (Config.irqAnswer (loadedBrk.draws + 1))
  have ended : iteration quiet loadedBrk = .ended .stopped t := by
    rw [iteration_quiet (by decide +kernel), poll]
    simp [stepOfIteration, ht, hf, hs]
  exact ⟨t, ⟨1, loadAndRunReturn_next.2 ⟨_, _, rfl, runFor_succ_ended 0 ended⟩⟩, hs⟩

/-- SYS14, SYS15, SYS17 (R455, R72, R402). -/
theorem test_host :
    (match powerOn .bSet ⟨List.replicate 0x10 0x00, [], 0⟩ [] with
      | .refused r => decide (r = .badProgramLength 0x10)
      | .next _ => false
      | .fault _ => false) = true ∧
    (busRead16 0xFFFF (placed 0x8000 [] [(0xFFFF, 0x12), (0x0000, 0x34)] start)).1 = 0x3412 ∧
    (busWrite 0x8123 0x55 start).fault = some (.illegalRomWrite 0x8123 0x55) := by decide +kernel

/-- SYS16 (R87): the last byte forwarded is that of 0x02FF, the first that of 0x0200. -/
theorem test_sprite_dma :
    run 0x8000 [0x8D, 0x14, 0x40] [(0x0200, 0x10), (0x02FF, 0x20)] { start with a := 0x02 }
      (fun t => (t.events.length, t.events.take 2, t.events.getLast?, t.cycles)) =
      some (257, [.videoTick 12, .videoOamDmaWrite 0x20], some (.videoOamDmaWrite 0x10), 4) := by decide +kernel

/-! ### Witnesses: for every statement with hypotheses, concrete data that meet them together -/

theorem witness_DecodeOfEncode :
    (Instr.sta (.absx 0xFFFF)).wellFormed = true ∧ (Instr.nopMem 0xFC (.absx 0xFFFF)).wellFormed = true := by
  decide +kernel

theorem witness_OpcodeTable :
    (⟨.adc, .imm, 0x69, 2, false, true⟩ : TableEntry) ∈ mnemonicTable ∧
    (⟨.xaa, .imm, 0x8B, 0, false, false⟩ : TableEntry) ∈ mnemonicTable := by decide +kernel

theorem witness_OperandCosts :
    (Instr.lda (.absy 0)).wellFormed = true ∧ (Instr.lax (.indy 0)).wellFormed = true ∧
    (Instr.nopMem 0x1C (.absx 0)).wellFormed = true ∧ (Instr.sta (.indy 0)).wellFormed = true ∧
    (Instr.sax (.zpy 0)).wellFormed = true ∧ (Instr.asl .acc).wellFormed = true ∧
    (Instr.isb (.indy 0)).wellFormed = true := by decide +kernel

/-- A three-byte instruction that wraps from 0xFFFF into RAM. -/
theorem witness_StepRunsDecoded :
    let s := placed 0xFFFF [0xAD, 0x34, 0x12] [] start
    s.fault = none ∧
    (∀ k, k < bytesRead (.lda (.abs 0x1234)) → answered (s.pc + BitVec.ofNat 16 k) = false) ∧
    decode [peek s s.pc, peek s (s.pc + 1), peek s (s.pc + 2)] = .ok (.lda (.abs 0x1234), []) :=
  ⟨by decide +kernel, by decide +kernel, by rfl⟩

/-- The last byte of the RAM window: only the bytes the step reads must not be answered from outside. -/
theorem witness_StepRunsDecoded_edge :
    let s := placed 0x1FFF [0xE8] [] start
    s.fault = none ∧ (∀ k, k < bytesRead .inx → answered (s.pc + BitVec.ofNat 16 k) = false) ∧
    decode [peek s s.pc, peek s (s.pc + 1), peek s (s.pc + 2)] =
      .ok (.inx, [peek s (s.pc + 1), peek s (s.pc + 2)]) :=
  ⟨by decide +kernel, by decide +kernel, by rfl⟩

/-- One, two and three bytes. -/
theorem witness_StepFetchesThroughBus :
    ∀ c ∈ ([([0xE8], 1), ([0xA9, 0x12], 2), ([0xAD, 0x34, 0x12], 3)] : List (List Byte × Nat)),
      let s := placed 0x8000 c.1 [] start
      s.fault = none ∧ (busRead s.pc { s with stopped := false }).2 = { s with stopped := false } ∧
      (descriptor (busRead s.pc { s with stopped := false }).1).implemented = true ∧
      (busRead s.pc { s with stopped := false }).1 ∉ nopImmOpcodes ∧
      (descriptor (busRead s.pc { s with stopped := false }).1).length = c.2 := by decide +kernel

theorem witness_StepsThatReadNoOperand :
    (placed 0x8000 [0x02] [] start).fault = none ∧
    busRead 0x8000 (placed 0x8000 [0x02] [] start) = (0x02, placed 0x8000 [0x02] [] start) ∧
    (descriptor 0x02).implemented = false ∧
    busRead 0x8000 (placed 0x8000 [0x80] [] start) = (0x80, placed 0x8000 [0x80] [] start) ∧
    (0x80 : Byte) ∈ nopImmOpcodes := by decide +kernel

/-- Both sides of the first answered address. -/
theorem witness_OperandAccess :
    answered (effectiveAddress (.abs 0x1FFF) start) = false ∧ Operand.mode (.abs 0x1FFF) ≠ .ind ∧
    answered (effectiveAddress (.abs 0x2002) start) = true := by decide +kernel

/-- Both sides of the first address of the ROM window, and the top of it, for a store. -/
theorem witness_Stores :
    (Instr.sta (.abs 0x7FFF)).wellFormed = true ∧ (Instr.stx (.abs 0x7FFF)).wellFormed = true ∧
    (Instr.sty (.abs 0x7FFF)).wellFormed = true ∧ (Instr.sax (.abs 0x7FFF)).wellFormed = true ∧
    inRom (effectiveAddress (.abs 0x7FFF) start) = false ∧ inRom (effectiveAddress (.abs 0x8000) start) = true ∧
    inRom (effectiveAddress (.abs 0xFFFF) start) = true := by decide +kernel

/-- The same for the instructions that read and write back (IncDecMemory, ShiftsAndRotates, ShiftAndCombine,
RotateAndAdd, StepAndCombine); the other hypotheses of these name values. -/
theorem witness_IncDecMemory :
    (Instr.inc (.absx 0x7FFF)).wellFormed = true ∧ (Instr.dec (.absx 0x7FFF)).wellFormed = true ∧
    inRom (effectiveAddress (.absx 0x7FFF) start) = false ∧
    inRom (effectiveAddress (.absx 0x7FFF) { start with x := 1 }) = true := by decide +kernel

theorem witness_ShiftsAndRotates :
    (Instr.asl (.absx 0x7FFF)).wellFormed = true ∧ (Instr.lsr (.absx 0x7FFF)).wellFormed = true ∧
    (Instr.rol (.absx 0x7FFF)).wellFormed = true ∧ (Instr.ror (.absx 0x7FFF)).wellFormed = true ∧
    Operand.absx 0x7FFF ≠ .acc ∧ inRom (effectiveAddress (.absx 0x7FFF) start) = false ∧
    inRom (effectiveAddress (.absx 0x7FFF) { start with x := 1 }) = true := by decide +kernel

theorem witness_ShiftAndCombine :
    (Instr.slo (.absy 0x7FFF)).wellFormed = true ∧ (Instr.rla (.absy 0x7FFF)).wellFormed = true ∧
    (Instr.sre (.absy 0x7FFF)).wellFormed = true ∧ inRom (effectiveAddress (.absy 0x7FFF) start) = false ∧
    inRom (effectiveAddress (.absy 0x7FFF) { start with y := 1 }) = true := by decide +kernel

theorem witness_RotateAndAdd :
    (Instr.rra (.absy 0x7FFF)).wellFormed = true ∧ inRom (effectiveAddress (.absy 0x7FFF) start) = false ∧
    inRom (effectiveAddress (.absy 0x7FFF) { start with y := 1 }) = true := by decide +kernel

theorem witness_StepAndCombine :
    (Instr.dcp (.absy 0x7FFF)).wellFormed = true ∧ (Instr.isb (.absy 0x7FFF)).wellFormed = true ∧
    (1 : Nat) = (if State.flag { start with p := 0x25 } .c then 1 else 0) ∧
    inRom (effectiveAddress (.absy 0x7FFF) start) = false ∧
    inRom (effectiveAddress (.absy 0x7FFF) { start with y := 1 }) = true := by decide +kernel

/-- The byte pulled with SP = 0xFF is at 0x0100. -/
theorem witness_Pulls :
    let s := placed 0x8000 [] [(0x0100, 0x80)] { start with sp := 0xFF }
    (0x80 : Byte) = peek s (0x0100 + (s.sp + 1).setWidth 16) := by decide +kernel

theorem witness_AddSubtract :
    (0 : Nat) = (if start.flag .c then 1 else 0) ∧
    (1 : Nat) = (if State.flag { start with p := 0x25 } .c then 1 else 0) := by decide +kernel

theorem witness_OverflowIsSigned :
    (0 : Int) = (if start.flag .c then 1 else 0) ∧
    (1 : Int) = (if State.flag { start with p := 0x25 } .c then 1 else 0) := by decide +kernel

theorem witness_DecimalHasNoEffect :
    (Instr.adc (.imm 1)).mnemonic ∈ [Mnemonic.adc, .sbc, .rra, .isb] ∧
    (Instr.sbcEB 1).mnemonic ∈ [Mnemonic.adc, .sbc, .rra, .isb] ∧
    (Instr.rra (.zp 1)).mnemonic ∈ [Mnemonic.adc, .sbc, .rra, .isb] ∧
    (Instr.isb (.zp 1)).mnemonic ∈ [Mnemonic.adc, .sbc, .rra, .isb] := by decide +kernel

theorem witness_Compares : (0x99 : Byte) = operandValue (.zp 0x42) (placed 0x8000 [] [(0x0042, 0x99)] start) := by
  decide +kernel

theorem witness_LogicAndBit : (0xC0 : Byte) = operandValue (.zp 0x10) (placed 0x8000 [] [(0x0010, 0xC0)] start) := by
  decide +kernel

/-- The pointer's high byte with and without the page bug. -/
theorem witness_Jumps :
    let s := placed 0x8000 [] [(0x0280, 0x34), (0x0281, 0x12), (0x02FF, 0x40), (0x0200, 0x80)] start
    busRead 0x02FF s = (0x40, s) ∧
    busRead (if (0x02FF : Word).toNat % 256 = 255 then 0x02FF - 255 else 0x02FF + 1) s = (0x80, s) ∧
    busRead 0x0280 s = (0x34, s) ∧
    busRead (if (0x0280 : Word).toNat % 256 = 255 then 0x0280 - 255 else 0x0280 + 1) s = (0x12, s) := by
  decide +kernel

theorem witness_Subroutines :
    let s := placed 0x8000 [] [(0x01FF, 0x05), (0x0100, 0x80)] { start with sp := 0xFE }
    (0x05 : Byte) = peek s (0x0100 + (s.sp + 1).setWidth 16) ∧
    (0x80 : Byte) = peek s (0x0100 + (s.sp + 2).setWidth 16) := by decide +kernel

/-- Each branch taken in one state and not in another; the two pages a taken one can lead to. -/
theorem witness_Branches :
    (∀ f ∈ [Flag.n, .v, .c, .z], State.flag { start with p := 0x20 } f = false ∧
      State.flag { start with p := 0xE3 } f = true) ∧
    seen (exec (.bvc 0x7F) (start.setPc 0x80F2)) (fun t => t.pc) = some 0x8171 ∧
    seen (exec (.bvc 0x02) (start.setPc 0x8002)) (fun t => t.pc) = some 0x8004 := by decide +kernel

theorem witness_RtiPopsPThenPc :
    let s := placed 0x8000 [] [(0x01FE, 0xC3), (0x01FF, 0x03), (0x0100, 0x80)] { start with sp := 0xFD }
    (0xC3 : Byte) = peek s (0x0100 + (s.sp + 1).setWidth 16) ∧
    (0x03 : Byte) = peek s (0x0100 + (s.sp + 2).setWidth 16) ∧
    (0x80 : Byte) = peek s (0x0100 + (s.sp + 3).setWidth 16) := by decide +kernel

/-- A step of BRK, and a step of another instruction. -/
theorem witness_OnlyBrkStops :
    (∃ t, step (placed 0x8000 [0x00] [] start) = .next t ∧ t.stopped = true) ∧
    (∃ t, step (placed 0x8000 [0xEA] [] { start with stopped := true }) = .next t ∧ t.stopped = false) :=
  ⟨exists_next (by decide +kernel), exists_next (by decide +kernel)⟩

theorem witness_Nops :
    (Instr.nopImp 0xFA).wellFormed = true ∧ (Instr.nopImm 0xE2 0xFF).wellFormed = true ∧
    (Instr.nopMem 0x0C (.abs 0x2002)).wellFormed = true := by decide +kernel

theorem witness_FlagInstructions :
    (Instr.sed, (0xF8 : Byte), Flag.d, true) ∈ ([(.clc, 0x18, .c, false), (.sec, 0x38, .c, true),
      (.cli, 0x58, .i, false), (.sei, 0x78, .i, true), (.clv, 0xB8, .v, false), (.cld, 0xD8, .d, false),
      (.sed, 0xF8, .d, true)] : List (Instr × Byte × Flag × Bool)) := by decide +kernel

theorem witness_CombinedLoads :
    (0xF0 : Byte) = operandValue (.absy 0x02FF) (placed 0x8000 [] [(0x0300, 0xF2)] { start with y := 1 }) &&&
      (0xFD : Byte) := by decide +kernel

theorem witness_ImmediateCombined :
    (0x40 : Byte) = 0x80 >>> 1 ||| (if start.flag .c then 0x80 else 0) ∧
    (0xC0 : Byte) = 0x80 >>> 1 ||| (if State.flag { start with p := 0x25 } .c then 0x80 else 0) ∧
    (Instr.anc 0x2B 0xFF).wellFormed = true := by decide +kernel

theorem reset_inv : Inv State.reset := ⟨by decide, by decide, by decide⟩

/-- A state with listed RAM and program ROM, and a step of it that stores. -/
theorem witness_StepKeepsInv :
    Inv (placed 0x8000 [0x85, 0x10] [] { start with a := 0x0F }) ∧
    ∃ t, step (placed 0x8000 [0x85, 0x10] [] { start with a := 0x0F }) = .next t ∧ peek t 0x0010 = 0x0F :=
  ⟨⟨by decide +kernel, by decide +kernel, by decide +kernel⟩, exists_next (by decide +kernel)⟩

/-- A step that charges, and one that records a fault. -/
theorem witness_TicksFollowAccesses :
    (∃ t, step (placed 0x8000 [0x8D, 0x16, 0x40] [] start) = .next t ∧ t.fault = none) ∧
    (∃ t, step (placed 0x8000 [0x02] [] start) = .next t ∧ t.fault ≠ none) :=
  ⟨exists_next (by decide +kernel), exists_next (by decide +kernel)⟩

theorem witness_StepKeepsCartridge :
    ∃ t, step (placed 0x8000 [0xE6, 0x10] [] { start with mirroring := 1, pending := some .irq }) = .next t ∧
      t.cycles = 5 := exists_next (by decide +kernel)

/-- Both faults; the write to the first address of the ROM window. -/
theorem witness_FaultIsPrecise :
    (∃ t, step (placed 0x8000 [0x02] [] start) = .next t ∧ t.fault = some (.unimplementedOpcode 0x02 0x8000)) ∧
    (∃ t, step (placed 0x0200 [0x8D, 0x00, 0x80] [] { start with a := 0x34 }) = .next t ∧
      t.fault = some (.illegalRomWrite 0x8000 0x34)) :=
  ⟨exists_next (by decide +kernel), exists_next (by decide +kernel)⟩

/-- For each flag an instruction that does not write it. -/
theorem witness_FlagWriters :
    (∃ t, exec .sed start = .next t ∧ ∀ f ∈ [Flag.n, .v, .b, .i, .z, .c], Instr.sed.mnemonic ∉ flagWriters f) ∧
    (∃ t, exec .sec start = .next t ∧ Instr.sec.mnemonic ∉ flagWriters .d) :=
  ⟨exists_next (by decide +kernel), exists_next (by decide +kernel)⟩

theorem witness_RegisterWriters :
    Instr.inx.wellFormed = true ∧ (∃ t, exec .inx start = .next t ∧
      (∀ r ∈ [Reg.a, .y, .sp], Instr.inx.mnemonic ∉ regWriters r) ∧ Instr.inx.mnemonic ∉ pcWriters) :=
  ⟨by decide, exists_next (by decide +kernel)⟩

/-- The edges of every clause's range, reads. -/
theorem witness_BusReadMap :
    ([0x0000, 0x1FFF] : List Word).all (fun a => decide (a.toNat < 0x2000)) = true ∧
    ([0x2002, 0x2004, 0x2007, 0x3FFF] : List Word).all
      (fun a => decide (0x2000 ≤ a.toNat ∧ a.toNat < 0x4000 ∧ a.toNat % 8 ∈ [2, 4, 7])) = true ∧
    ([0x2000, 0x3FFE] : List Word).all
      (fun a => decide (0x2000 ≤ a.toNat ∧ a.toNat < 0x4000 ∧ a.toNat % 8 ∉ [2, 4, 7])) = true ∧
    (0x4016 : Word).toNat = 0x4016 ∧
    ([0x4000, 0x4014, 0x4015, 0x4017, 0x7FFF] : List Word).all
      (fun a => decide (0x4000 ≤ a.toNat ∧ a.toNat < 0x8000 ∧ a.toNat ≠ 0x4016)) = true ∧
    ([0x8000, 0xBFFF, 0xC000, 0xFFFF] : List Word).all (fun a => decide (0x8000 ≤ a.toNat)) = true ∧
    start.bank = .full ∧ State.bank { start with bank := .half } = .half := by decide +kernel

/-- The edges of every clause's range, writes. -/
theorem witness_BusWriteMap :
    ([0x0000, 0x1FFF] : List Word).all (fun a => decide (a.toNat < 0x2000)) = true ∧
    ([0x2000, 0x3FFF] : List Word).all (fun a => decide (0x2000 ≤ a.toNat ∧ a.toNat < 0x4000)) = true ∧
    (0x4014 : Word).toNat = 0x4014 ∧ (0x4016 : Word).toNat = 0x4016 ∧
    ([0x4000, 0x4013, 0x4015, 0x4017, 0x7FFF] : List Word).all
      (fun a => decide (0x4000 ≤ a.toNat ∧ a.toNat < 0x8000 ∧ a.toNat ≠ 0x4014 ∧ a.toNat ≠ 0x4016)) = true ∧
    ([0x8000, 0xFFFF] : List Word).all (fun a => decide (0x8000 ≤ a.toNat)) = true := by decide +kernel

theorem witness_RamMirroring :
    (0x1FFF : Word).toNat < 0x2000 ∧ (0x07FF : Word).toNat < 0x2000 ∧ (0x0800 : Word).toNat < 0x2000 ∧
    (0x1FFF : Word).toNat % 0x0800 = (0x07FF : Word).toNat % 0x0800 ∧
    (0x0800 : Word).toNat % 0x0800 ≠ (0x07FF : Word).toNat % 0x0800 := by decide +kernel

theorem witness_SpriteDma :
    (∀ k, k < 256 → answered (BitVec.ofNat 16 ((0x02 : Byte).toNat * 256 + k)) = false) ∧
    (∀ k, k < 256 → answered (BitVec.ofNat 16 ((0xFF : Byte).toNat * 256 + k)) = false) := by decide +kernel

/-- Neither bank length; each of them. -/
theorem witness_PowerOn :
    ([0x00] : List Byte).length ≠ 0x4000 ∧ ([0x00] : List Byte).length ≠ 0x8000 ∧
    (List.replicate 0x4000 (0x00 : Byte)).length = Bank.half.size ∧
    (List.replicate 0x8000 (0x00 : Byte)).length = Bank.full.size :=
  ⟨by decide, by decide, List.length_replicate, List.length_replicate⟩

/-- One byte too many, and exactly as many as fit. -/
theorem witness_Load :
    start.bank.size < (List.replicate 0x8001 (0x00 : Byte)).length ∧
    (List.replicate 0x8000 (0x00 : Byte)).length ≤ start.bank.size ∧ start.prg.wf start.bank.size = true := by
  refine ⟨?_, ?_, rfl⟩ <;> rw [List.length_replicate] <;> decide

theorem witness_EntryThenRti : start.unused = true := by decide

/-- The answers are free values, so that no concrete state meets one clause for certain; whatever they are, a state
meets the hypotheses of one clause. -/
theorem witness_InterruptChoice :
    Config.nmiAnswer start.draws = true ∨
    (Config.nmiAnswer start.draws = false ∧ Config.irqAnswer (start.draws + 1) = true ∧
      State.flag { start with p := 0x20 } .i = false) ∨
    (Config.nmiAnswer start.draws = false ∧
      (Config.irqAnswer (start.draws + 1) = false ∨ start.flag .i = true)) := by
  cases Config.nmiAnswer start.draws <;> cases Config.irqAnswer (start.draws + 1) <;> decide

/-- Each way an iteration can end, and one that goes on. -/
theorem witness_RunLoopIteration :
    let f : Fault := .unimplementedOpcode 0x02 0x8000
    State.fault { start with fault := some f } = some f ∧ start.fault = none ∧
    (fun _ : State => (start, true)) (pollAndDeliver start) = (start, true) ∧
    (fun _ : State => (busWrite 0x8000 0x00 start, false)) (pollAndDeliver start) =
      (busWrite 0x8000 0x00 start, false) ∧ (busWrite 0x8000 0x00 start).fault ≠ none ∧
    (∃ t, step (placed 0x8000 [0x02] [] start) = .next t ∧ t.fault = some f) ∧
    (∃ t, step (placed 0x8000 [0x00] [] start) = .next t ∧ t.fault = none ∧ t.stopped = true) ∧
    (∃ t, step (placed 0x8000 [0xEA] [] start) = .next t ∧ t.fault = none ∧ t.stopped = false) :=
  ⟨rfl, rfl, rfl, rfl, by decide +kernel, exists_next (by decide +kernel), exists_next (by decide +kernel),
    exists_next (by decide +kernel)⟩

theorem witness_FaultIsNeverCleared :
    let f : Fault := .unimplementedOpcode 0x02 0x8000
    State.fault { start with fault := some f } = some f ∧ HostOp.reset ≠ .newCpu ∧
    (∃ t, HostOp.reset.Returns .bSet { start with fault := some f } (.next t) ∧ t.cycles = 7) :=
  ⟨rfl, by decide, _, ⟨0, rfl⟩, by decide +kernel⟩

theorem witness_HostOperations :
    start.bank.size < (List.replicate 0x8001 (0x00 : Byte)).length ∧
    ([] : List Byte).length ≠ 0x4000 ∧ ([] : List Byte).length ≠ 0x8000 ∧
    (List.replicate 0x4000 (0xA5 : Byte)).length = Bank.half.size :=
  ⟨by rw [List.length_replicate]; decide, by decide, by decide, List.length_replicate⟩

end Sys2Proof.Tests
end

section
/-! The invariant and the cartridge under a step: both follow from what any step can do, its accesses and then a
change of the cycle counter, the history and the fault record. -/

namespace Sys2Proof.Machine

/-- However an instruction ends (by its charge or by either fault), it has made accesses, and beside them only the
cycle counter, the history and the fault record can differ. -/
theorem Ran.accesses {i : Instr} {s t : State} (h : Ran i s t) :
    ∃ u, Accesses s u ∧ ∃ c e f, t = { u with cycles := c, events := e, fault := f } := by
  cases h with
  | charged u n h e => exact ⟨u, h, _, _, _, e⟩
  | faulted d es a v h ha e => exact ⟨_, h, _, _, _, e⟩
  | marked op h e => exact ⟨s, Accesses.refl s, _, _, _, e⟩

/-- The same of a whole step, the fetch's accesses among its own. -/
theorem step_accesses {s t : State} (h : step s = .next t) :
    ∃ u, Accesses s u ∧ ∃ c e f, t = { u with cycles := c, events := e, fault := f } := by
  obtain ⟨-, hfetch, hran⟩ := step_ran h
  obtain ⟨u, hu, ht⟩ := hran.accesses
  exact ⟨u, hfetch.trans hu, ht⟩

/-- Accesses keep the invariant: they leave program ROM alone, and RAM's form and bit U as the invariant needs. -/
theorem Accesses.inv {s t : State} (h : Accesses s t) (hs : Inv s) : Inv t where
  ram := h.ram hs.ram
  prg := by rw [h.prg, h.bank]; exact hs.prg
  unused := h.unused hs.unused

/-- The invariant does not speak of the cycle counter, the history and the fault record. -/
theorem Inv.of_accounting {s : State} (h : Inv s) (c : Nat) (e : List Event) (f : Option Fault) :
    Inv { s with cycles := c, events := e, fault := f } :=
  ⟨h.ram, h.prg, h.unused⟩

end Sys2Proof.Machine
end

section
/-! Construction from a cartridge of a bank's length (R455). -/

namespace Sys2Proof.Machine

/-- A list of bytes that an unlisted cell holds makes the array in which nothing is listed. -/
theorem Memory.ofBytesFrom_replicate_unlisted (n k : Nat) :
    Memory.ofBytesFrom k (List.replicate n Config.unlistedByte) = [] := by
  induction n generalizing k with
  | zero => rfl
  | succ n ih => rw [List.replicate_succ, Memory.ofBytesFrom, if_pos rfl, ih]

/-- Construction with a program ROM of a bank's length is not refused (R455). -/
theorem powerOn_of_length {r : Config.PReset} {cart : Cartridge} {ramInit : List Byte} {k : Bank}
    (h : cart.prg.length = k.size) :
    powerOn r cart ramInit = .next (newCpu r { State.reset with
      ram := Memory.ofBytes (ramInit.take Config.ramSize), prg := Memory.ofBytes cart.prg, bank := k
      chr := cart.chr, mirroring := cart.mirroring, draws := 0, events := [] }) := by
  unfold powerOn
  rw [h, bankOf_size]

end Sys2Proof.Machine
end

section
/-! The return from an interrupt right after its entry (R417). -/

namespace Sys2Proof.Machine

/-- Interrupt entry leaves SP three lower. -/
theorem deliver_sp (k : IrqKind) (s : State) : (deliver k s).sp = s.sp - 3 := by
  rw [deliver_eq, push16_eq, push8_eq]
  show s.sp - 2 - 1 = s.sp - 3
  bv_omega

/-- RAM after interrupt entry: the two bytes of PC and P with B and U set, on the three cells from SP downwards. -/
theorem deliver_ram (k : IrqKind) (s : State) :
    (deliver k s).ram =
      ((s.ram.write (0x100 + s.sp.toNat) (hi8 s.pc)).write (0x100 + (s.sp - 1).toNat) (lo8 s.pc)).write
        (0x100 + (s.sp - 2).toNat) (exportP s.p) := by
  rw [deliver_eq, push16_eq, push8_eq]
  rfl

/-- The three bytes of an interrupt entry stand where the return pops them: their cells are different ones. -/
theorem deliver_ram_read (k : IrqKind) (s : State) :
    (deliver k s).ram.read (0x100 + s.sp.toNat) = hi8 s.pc ∧
    (deliver k s).ram.read (0x100 + (s.sp - 1).toNat) = lo8 s.pc ∧
    (deliver k s).ram.read (0x100 + (s.sp - 2).toNat) = exportP s.p := by
  have h01 : 0x100 + s.sp.toNat ≠ 0x100 + (s.sp - 1).toNat := by bv_omega
  have h02 : 0x100 + s.sp.toNat ≠ 0x100 + (s.sp - 2).toNat := by bv_omega
  have h12 : 0x100 + (s.sp - 1).toNat ≠ 0x100 + (s.sp - 2).toNat := by bv_omega
  rw [deliver_ram]
  refine ⟨?_, ?_, Memory.read_write_same _ _ _⟩
  · rw [Memory.read_write_other _ _ h02, Memory.read_write_other _ _ h01, Memory.read_write_same]
  · rw [Memory.read_write_other _ _ h12, Memory.read_write_same]

/-- What the return right after an interrupt entry comes to, wherever it stands: of the state after the entry SP, P
and PC change, to what they were before it, but for B (R34). -/
theorem returnFromInterrupt_deliver (k : IrqKind) (s : State) (at_ : Word) (h : s.unused = true) :
    returnFromInterrupt ((deliver k s).setPc at_) =
      (((deliver k s).setSp s.sp).setP (withFlag .b false s.p)).setPc s.pc := by
  obtain ⟨hhi, hlo, hp⟩ := deliver_ram_read k s
  have e1 : s.sp - 3 + 1 = s.sp - 2 := by bv_omega
  have e2 : s.sp - 3 + 2 = s.sp - 1 := by bv_omega
  have e3 : s.sp - 3 + 3 = s.sp := by bv_omega
  simp only [returnFromInterrupt_eq, State.setPc_sp, State.setPc_ram, deliver_sp, e1, e2, e3, hhi, hlo, hp,
    word16_hi8_lo8, importP_exportP s.p h]
  rfl

/-- Interrupt entry leaves A, X and Y alone. -/
theorem deliver_reg (k : IrqKind) (s : State) {r : Reg} (h : r ≠ .sp) : (deliver k s).reg r = s.reg r := by
  rw [deliver_eq, push16_eq, push8_eq]
  cases r with
  | sp => exact absurd rfl h
  | a | x | y => simp [State.reg]

/-- The charge changes no register. -/
@[simp] theorem account_reg (i : Instr) (k : Bool) (n : Nat) (s : State) (r : Reg) :
    (account i k n s).reg r = s.reg r := by
  cases r <;> rfl

end Sys2Proof.Machine
end

section
/-! The fault record: no write, no host operation but the construction of a new CPU and no run clears it (R38, R403,
R452). -/

namespace Sys2Proof.Machine

/-- A bus write clears no fault: it records one or leaves the record as it is. -/
theorem busWrite_fault_ne_none (a : Word) (v : Byte) {s : State} (h : s.fault ≠ none) :
    (busWrite a v s).fault ≠ none := by
  obtain ⟨-, e⟩ | ⟨-, -, e⟩ | ⟨-, -, d, es, e⟩ := busWrite_state a v s
  · rw [e]; exact h
  · rw [e]; simp
  · rw [e]; exact h

/-- Nor does a 16-bit write. -/
theorem busWrite16_fault_ne_none (a w : Word) {s : State} (h : s.fault ≠ none) :
    (busWrite16 a w s).fault ≠ none := by
  unfold busWrite16 writeThen
  split
  · exact busWrite_fault_ne_none _ _ h
  · exact busWrite_fault_ne_none _ _ (busWrite_fault_ne_none _ _ h)

/-- A 16-bit read leaves the fault record as it is. -/
theorem busRead16_snd_fault (a : Word) (s : State) : (busRead16 a s).2.fault = s.fault := by
  simp [busRead16]

/-- `reset()` leaves the fault record as it is (R452). -/
theorem resetCpu_fault (r : Config.PReset) (s : State) : (resetCpu r s).fault = s.fault :=
  busRead16_snd_fault _ _

/-- A copy into program ROM leaves the fault record as it is. -/
theorem copyToRom_fault (a : Word) (bs : List Byte) (s : State) : (copyToRom a bs s).fault = s.fault := by
  induction bs generalizing a s with
  | nil => rfl
  | cons b bs ih => exact ih (a + 1) (writeRom a b s)

/-- `load` leaves the fault record as it is. -/
theorem loadProgram_fault {bytes : List Byte} {s t : State} (h : loadProgram bytes s = .next t) :
    t.fault = s.fault := by
  unfold loadProgram at h
  split at h
  · cases h
  · cases h
    exact copyToRom_fault _ _ _

/-- Replacing the cartridge leaves the fault record as it is. -/
theorem replaceCartridge_fault {r : Config.PReset} {cart : Cartridge} {s t : State}
    (h : replaceCartridge r cart s = .next t) : t.fault = s.fault := by
  unfold replaceCartridge at h
  split at h
  · cases h
  · cases h
    exact resetCpu_fault r _

/-- The run loop stops at once where a fault is recorded (R430). -/
theorem runFor_state_of_fault (f : State → State × Bool) (n : Nat) {s : State} (h : s.fault ≠ none) :
    (runFor f n s).state = s := by
  obtain ⟨e, he⟩ := Option.ne_none_iff_exists'.mp h
  cases n with
  | zero => rfl
  | succ n =>
    have hi : iteration f s = .ended (.faulted e) s := by rw [iteration, he]
    rw [runFor_succ_ended n hi]
    rfl

/-- A `load_and_run` that returns clears no fault: its run stops at once where one is recorded. -/
theorem loadAndRunReturn_fault {r : Config.PReset} {bytes : List Byte} {n : Nat} {s t : State}
    (hs : s.fault ≠ none) (h : loadAndRunReturn r bytes n s = some (.next t)) : t.fault ≠ none := by
  obtain ⟨u, e, hl, hr⟩ := loadAndRunReturn_next.mp h
  have hu : (resetCpu r u).fault ≠ none := by rw [resetCpu_fault, loadProgram_fault hl]; exact hs
  have ht := runFor_state_of_fault quiet n hu
  rw [hr] at ht
  change t = resetCpu r u at ht
  rw [ht]
  exact hu

/-- A CPU whose fault record is set takes no step (R38). -/
theorem step_of_fault {s : State} {f : Fault} (h : s.fault = some f) : step s = .fault f := by
  rw [step, h]

/-- No host operation but the construction of a new CPU clears a fault. -/
theorem HostOp.apply_fault_ne_none {r : Config.PReset} {op : HostOp} {n : Nat} {s t : State} (hs : s.fault ≠ none)
    (hop : op ≠ .newCpu) (h : op.apply r n s = some (.next t)) : t.fault ≠ none := by
  cases op with
  | newCpu => exact absurd rfl hop
  | reset => cases h; rw [resetCpu_fault]; exact hs
  | load bytes => rw [loadProgram_fault (Option.some.inj h)]; exact hs
  | loadAndRun bytes => exact loadAndRunReturn_fault hs h
  | step => exact absurd (step_cases (Option.some.inj h)).1 hs
  | acknowledge => cases h; exact hs
  | read8 a => cases h; rw [busRead_snd_fault]; exact hs
  | read16 a => cases h; rw [busRead16_snd_fault]; exact hs
  | write8 a v => cases h; exact busWrite_fault_ne_none a v hs
  | write16 a w => cases h; exact busWrite16_fault_ne_none a w hs
  | replaceCartridge cart => rw [replaceCartridge_fault (Option.some.inj h)]; exact hs
  | writeP v => cases h; exact hs

end Sys2Proof.Machine
end

section
/-! What `load_and_run`, the replacement of the cartridge and the host's write of P come to. -/

namespace Sys2Proof.Machine

/-- How a run of `load_and_run` can end (R433, R434): by BRK or at a recorded fault. -/
theorem runFor_quiet_ended {n : Nat} {s t : State} {e : RunEnd} (h : runFor quiet n s = .ended e t) :
    (e = .stopped ∧ t.stopped = true ∧ t.fault = none) ∨ ∃ f, e = .faulted f ∧ t.fault = some f := by
  induction n generalizing s with
  | zero => simp at h
  | succ n ih =>
    cases hi : iteration quiet s with
    | running u =>
      rw [runFor_succ_running n hi] at h
      exact ih h
    | ended e' u =>
      rw [runFor_succ_ended n hi] at h
      cases h
      cases hf : s.fault with
      | none =>
        rw [iteration_quiet hf] at hi
        exact (stepOfIteration_ended hi).symm
      | some f =>
        rw [iteration, hf] at hi
        cases hi
        exact .inr ⟨f, rfl, hf⟩

/-- `load_and_run` returns a state exactly where its program fits and its run, which has no bound, ends there. -/
theorem loadAndRun_returns_next_iff {r : Config.PReset} {bytes : List Byte} {s t : State} :
    (HostOp.loadAndRun bytes).Returns r s (.next t) ↔
      ∃ u e, loadProgram bytes s = .next u ∧ RunEnds quiet (resetCpu r u) e t := by
  constructor
  · rintro ⟨n, h⟩
    obtain ⟨u, e, hl, hr⟩ := loadAndRunReturn_next.mp h
    exact ⟨u, e, hl, n, hr⟩
  · rintro ⟨u, e, hl, n, hr⟩
    exact ⟨n, loadAndRunReturn_next.mpr ⟨u, e, hl, hr⟩⟩

/-- A program that does not fit is refused by `load` (R457). -/
theorem loadProgram_too_long {bytes : List Byte} {s : State} (h : s.bank.size < bytes.length) :
    loadProgram bytes s = .refused (.programTooLong bytes.length) := if_pos h

/-- And so by `load_and_run`, before any run. -/
theorem loadAndRun_too_long {r : Config.PReset} {bytes : List Byte} {s : State} (h : s.bank.size < bytes.length) :
    (HostOp.loadAndRun bytes).Returns r s (.refused (.programTooLong bytes.length)) := by
  refine ⟨0, ?_⟩
  show loadAndRunReturn r bytes 0 s = _
  rw [loadAndRunReturn, loadAndRun, loadProgram_too_long h]

/-- A cartridge with a program ROM of neither length is refused (R458). -/
theorem replaceCartridge_of_bad_length {r : Config.PReset} {cart : Cartridge} {s : State}
    (h1 : cart.prg.length ≠ 0x4000) (h2 : cart.prg.length ≠ 0x8000) :
    replaceCartridge r cart s = .refused (.badProgramLength cart.prg.length) := by
  rw [replaceCartridge, bankOf_other h1 h2]

/-- A cartridge with a program ROM of a bank's length replaces the one before, and the CPU is reset (R458). -/
theorem replaceCartridge_of_length {r : Config.PReset} {cart : Cartridge} {s : State} {k : Bank}
    (h : cart.prg.length = k.size) :
    replaceCartridge r cart s = .next (resetCpu r
      { s with prg := Memory.ofBytes cart.prg, bank := k, chr := cart.chr, mirroring := cart.mirroring }) := by
  rw [replaceCartridge, h, bankOf_size]

/-- The host's write of P sets U (R28). -/
theorem hostWriteP_unused (v : Byte) (s : State) : (hostWriteP v s).unused = true := by
  show (v ||| 0x20).getLsbD unusedBit = true
  rw [BitVec.getLsbD_or]
  exact Bool.or_true _

/-- And every flag as the byte says. -/
theorem hostWriteP_flag (v : Byte) (s : State) (f : Flag) : (hostWriteP v s).flag f = v.getLsbD f.bit := by
  show (v ||| 0x20).getLsbD f.bit = _
  rw [BitVec.getLsbD_or]
  cases f <;> exact Bool.or_false _

end Sys2Proof.Machine
end

section
/-! D has no effect on additions and subtractions (R240, R327): writing D commutes with every access, and with the
effects of ADC, SBC, RRA and ISB. -/

namespace Sys2Proof.Machine

/-- Writing D commutes with writing another flag. -/
theorem withFlag_d_comm {g : Flag} (h : g ≠ .d) (d w : Bool) (p : Byte) :
    withFlag .d d (withFlag g w p) = withFlag g w (withFlag .d d p) := by
  cases g with
  | d => exact absurd rfl h
  | n | v | b | i | z | c => revert p; cases d <;> cases w <;> decide +kernel

/-- So it does on the state. -/
theorem State.setFlag_d_comm {g : Flag} (h : g ≠ .d) (d w : Bool) (s : State) :
    (s.setFlag g w).setFlag .d d = (s.setFlag .d d).setFlag g w :=
  congrArg (fun p => s.setP p) (withFlag_d_comm h d w s.p)

/-- An access under a flag written beforehand reads the same byte, and the flag is written after it. -/
theorem busRead_setFlag (a : Word) (f : Flag) (v : Bool) (s : State) :
    busRead a (s.setFlag f v) = ((busRead a s).1, (busRead a s).2.setFlag f v) := by
  unfold busRead
  cases readTarget a <;> rfl

theorem forwardBytes_setFlag (n : Nat) (a : Word) (f : Flag) (v : Bool) (s : State) :
    forwardBytes n a (s.setFlag f v) = (forwardBytes n a s).setFlag f v := by
  induction n generalizing a s with
  | zero => rfl
  | succ n ih =>
    rw [forwardBytes, forwardBytes, busRead_setFlag]
    exact ih (a + 1) ((busRead a s).2.record (.videoOamDmaWrite (busRead a s).1))

theorem busWrite_setFlag (a : Word) (b : Byte) (f : Flag) (v : Bool) (s : State) :
    busWrite a b (s.setFlag f v) = (busWrite a b s).setFlag f v := by
  unfold busWrite
  cases writeTarget a with
  | oamDma => exact forwardBytes_setFlag 256 _ f v s
  | ram i | controller | video r | rom | dropped => rfl

theorem resolve_setFlag (o : Operand) (f : Flag) (v : Bool) (s : State) :
    resolve o (s.setFlag f v) =
      { ea := (resolve o s).ea, crossed := (resolve o s).crossed, state := (resolve o s).state.setFlag f v } := by
  cases o with
  | ind ptr => simp only [resolve, jumpPointer, busRead_setFlag]
  | indx b => simp only [resolve, zeroPagePointer_eq]; rfl
  | indy b => simp only [resolve, zeroPagePointer_eq]; rfl
  | acc | imm b | zp b | zpx b | zpy b | abs w | absx w | absy w | rel b => rfl

theorem load_setFlag (o : Operand) (ea : Word) (f : Flag) (v : Bool) (s : State) :
    load o ea (s.setFlag f v) = ((load o ea s).1, (load o ea s).2.setFlag f v) := by
  cases o with
  | acc | imm b => rfl
  | zp _ | zpx _ | zpy _ | abs _ | absx _ | absy _ | ind _ | indx _ | indy _ | rel _ => exact busRead_setFlag ea f v s

/-- A store commutes with writing a flag, where what follows it does. -/
theorem storeThen_setFlag (o : Operand) (ea : Word) (b : Byte) {k : State → State} (f : Flag) (v : Bool) (s : State)
    (hk : ∀ t : State, k (t.setFlag f v) = (k t).setFlag f v) :
    storeThen o ea b k (s.setFlag f v) = (storeThen o ea b k s).setFlag f v := by
  by_cases ho : o = .acc
  · subst ho
    exact hk (s.setA b)
  · simp only [storeThen_memory _ _ _ _ ho, writeThen, busWrite_setFlag, hk]
    split <;> rfl

/-- An instruction that reads its operand commutes with writing a flag, where its effect does. -/
theorem readInstr_setFlag {i : Instr} {o : Operand} {e : Byte → State → State} (f : Flag) (v : Bool) (s : State)
    (he : ∀ b (t : State), e b (t.setFlag f v) = (e b t).setFlag f v) :
    readInstr i o e (s.setFlag f v) = (readInstr i o e s).setFlag f v := by
  simp only [readInstr, resolve_setFlag, load_setFlag, he]
  rfl

/-- So does a read-modify-write instruction, where its byte does not depend on the flag. -/
theorem modifyInstr_setFlag {i : Instr} {o : Operand} {m : Byte → State → Byte}
    {e : Byte → Byte → State → State} (f : Flag) (v : Bool) (s : State) (hm : ∀ b (t : State), m b (t.setFlag f v) = m b t)
    (he : ∀ b r (t : State), e b r (t.setFlag f v) = (e b r t).setFlag f v) :
    modifyInstr i o m e (s.setFlag f v) = (modifyInstr i o m e s).setFlag f v := by
  simp only [modifyInstr, resolve_setFlag, load_setFlag, hm]
  exact storeThen_setFlag _ _ _ f v _ (fun t => by rw [he]; rfl)

/-- The addition neither reads nor writes D. -/
theorem State.addWithCarry_setD (b : Byte) (d : Bool) (s : State) :
    (s.setFlag .d d).addWithCarry b = (s.addWithCarry b).setFlag .d d := by
  have hc : (s.setFlag .d d).flag .c = s.flag .c := State.setFlag_flag .d .c d s
  simp only [State.addWithCarry, State.setFlag_a, hc]
  simp [State.setNZ, withNZ, State.setA, State.setFlag, State.setP, withFlag_d_comm]

end Sys2Proof.Machine
end

section
/-! The writer lists of R20 to R24 and R35: what an instruction is not listed as writing it leaves as it was. -/

namespace Sys2Proof.Machine

/-- One effect and then another change what either changes. -/
theorem Only.comp {regs regs' : List Reg} {flags flags' : List Flag} {s t u : State} (h : Only regs flags s t)
    (k : Only regs' flags' t u) : Only (regs ++ regs') (flags ++ flags') s u :=
  (h.mono (fun _ => List.mem_append_left _) (fun _ => List.mem_append_left _)).trans
    (k.mono (fun _ => List.mem_append_right _) (fun _ => List.mem_append_right _))

/-- The writer lists name the instruction for each of these registers and flags. -/
def listed (i : Instr) (regs : List Reg) (flags : List Flag) : Bool :=
  regs.all (fun r => decide (i.mnemonic ∈ regWriters r)) && flags.all (fun f => decide (i.mnemonic ∈ flagWriters f))

theorem listed_iff {i : Instr} {regs : List Reg} {flags : List Flag} :
    listed i regs flags = true ↔
      (∀ r ∈ regs, i.mnemonic ∈ regWriters r) ∧ ∀ f ∈ flags, i.mnemonic ∈ flagWriters f := by
  simp [listed]

/-- A reading of the state that no access changes, nor what the instruction writes according to the writer lists.
`acc` is for a store to the accumulator, which only an instruction of the mode ACC makes. -/
structure Unlisted {α : Type} (i : Instr) (φ : State → α) : Prop extends Stable φ where
  only : ∀ {regs flags s t}, Only regs flags s t → listed i regs flags = true → φ t = φ s
  acc : (i.wellFormed = true → listed i [.a] [] = true) → ∀ v t, φ (State.setA v t) = φ t
  status : (∀ f, listed i [] [f] = true) → ∀ v t, φ (State.setP v t) = φ t
  pc : i.mnemonic ∈ pcWriters → ∀ v t, φ (State.setPc v t) = φ t
  stopped : ∀ v t, φ (State.setStopped v t) = φ t

/-- A flag the instruction is not listed for (R35). -/
theorem Unlisted.flag {i : Instr} {f : Flag} (h : i.mnemonic ∉ flagWriters f) : Unlisted i (fun s => s.flag f) where
  toStable := Stable.flag f
  only k hl := k.frame.flag f fun hf => h ((listed_iff.mp hl).2 f hf)
  acc _ _ _ := rfl
  status hl _ _ := absurd ((listed_iff.mp (hl f)).2 f List.mem_cons_self) h
  pc _ _ _ := rfl
  stopped _ _ := rfl

/-- A register a well-formed instruction is not listed for (R20 to R23). -/
theorem Unlisted.reg {i : Instr} {r : Reg} (hwf : i.wellFormed = true) (h : i.mnemonic ∉ regWriters r) :
    Unlisted i (fun s => s.reg r) where
  toStable := Stable.reg r
  only k hl := k.frame.reg r fun hr => h ((listed_iff.mp hl).1 r hr)
  acc hl v t := by
    have hne : r ≠ .a := by
      rintro rfl
      exact h ((listed_iff.mp (hl hwf)).1 _ List.mem_cons_self)
    rw [State.reg_setA, if_neg hne]
  status _ v t := State.reg_setP v t r
  pc _ v t := State.reg_setPc v t r
  stopped v t := State.reg_setStopped v t r

/-- PC, for an instruction that is no control transfer (R24). -/
theorem Unlisted.programCounter {i : Instr} (h : i.mnemonic ∉ pcWriters) : Unlisted i (fun s => s.pc) where
  toStable := Stable.pc
  only k _ := k.pc
  acc _ _ _ := rfl
  status _ _ _ := rfl
  pc hpc := absurd hpc h
  stopped _ _ := rfl

namespace Unlisted
variable {α : Type} {i : Instr} {φ : State → α} {regs : List Reg} {flags : List Flag}

/-- SP, written by an instruction listed for it. -/
theorem setSp (h : Unlisted i φ) (hl : listed i [.sp] [] = true) (v : Byte) (t : State) :
    φ (State.setSp v t) = φ t :=
  h.only (Only.setSp v t) hl

/-- An instruction that reads its operand and is listed for what its effect writes. -/
theorem read (h : Unlisted i φ) {o : Operand} {e : Byte → State → State} (s : State)
    (he : ∀ v t, Only regs flags t (e v t)) (hl : listed i regs flags = true) :
    φ (Machine.readInstr i o e s) = φ s :=
  h.readInstr s fun v t => h.only (he v t) hl

/-- A store instruction: a term of it with the mode ACC is no instruction. -/
theorem write (h : Unlisted i φ) {o : Operand} {v : Byte} (s : State) (ho : o = .acc → i.wellFormed = false) :
    φ (Machine.writeInstr i o v s) = φ s := by
  by_cases hacc : o = .acc
  · exact h.writeInstr_setA s (h.acc (by simp [ho hacc]))
  · exact h.writeInstr s hacc

/-- A read-modify-write instruction that is listed for what its effect writes, and for A if it has the mode ACC. -/
theorem modify (h : Unlisted i φ) {o : Operand} {m : Byte → State → Byte} {e : Byte → Byte → State → State}
    (s : State) (he : ∀ v r t, Only regs flags t (e v r t)) (hl : listed i regs flags = true)
    (ho : o = .acc → i.wellFormed = true → listed i [.a] [] = true) :
    φ (Machine.modifyInstr i o m e s) = φ s := by
  refine h.modifyInstr s (fun v t => ?_) fun v r t => h.only (he v r t) hl
  by_cases hacc : o = .acc
  · exact .inl (h.acc (ho hacc) v t)
  · exact .inr hacc

/-- An instruction without operand that is listed for what its effect writes. -/
theorem plain (h : Unlisted i φ) {e : State → State} {s : State} (he : Only regs flags s (e s))
    (hl : listed i regs flags = true) : φ (Machine.plainInstr i e s) = φ s :=
  h.plainInstr s (h.only he hl)

/-- A branch. -/
theorem branch (h : Unlisted i φ) {offset : Byte} {cond : Bool} (s : State) (hpc : i.mnemonic ∈ pcWriters) :
    φ (Machine.branchInstr i offset cond s) = φ s :=
  h.branchInstr s (h.pc hpc)

end Unlisted

/-- What an instruction is not listed as writing it leaves as it was. -/
theorem exec_unlisted {α : Type} {i : Instr} {φ : State → α} {s t : State} (h : Unlisted i φ)
    (hx : exec i s = .next t) : φ t = φ s := by
  cases i with
  | lda _ | and _ | ora _ | eor _ => cases hx; exact h.read s (fun _ _ => Only.loadA _ _) rfl
  | ldx _ => cases hx; exact h.read s (fun _ _ => Only.loadX _ _) rfl
  | ldy _ => cases hx; exact h.read s (fun _ _ => Only.loadY _ _) rfl
  | lax _ => cases hx; exact h.read s (fun _ _ => (Only.setX _ _).comp (Only.loadA _ _)) rfl
  | las _ =>
    cases hx
    exact h.read s (fun _ _ => ((Only.setSp _ _).comp (Only.setX _ _)).comp (Only.loadA _ _)) rfl
  | adc _ | sbc _ | sbcEB _ => cases hx; exact h.read s (fun _ _ => Only.addWithCarry _ _) rfl
  | cmp _ | cpx _ | cpy _ => cases hx; exact h.read s (fun _ _ => Only.compare _ _ _) rfl
  | bit _ =>
    cases hx
    exact h.read s (fun _ _ => ((Only.setFlag _ _ _).comp (Only.setFlag _ _ _)).comp (Only.setFlag _ _ _)) rfl
  | anc _ _ => cases hx; exact h.read s (fun _ _ => (Only.loadA _ _).comp (Only.setFlag _ _ _)) rfl
  | alr _ => cases hx; exact h.read s (fun _ _ => (Only.setFlag _ _ _).comp (Only.loadA _ _)) rfl
  | arr _ =>
    cases hx
    exact h.read s (fun _ _ => ((Only.loadA _ _).comp (Only.setFlag _ _ _)).comp (Only.setFlag _ _ _)) rfl
  | axs _ => cases hx; exact h.read s (fun _ _ => (Only.setFlag _ _ _).comp (Only.loadX _ _)) rfl
  | nopMem _ _ => cases hx; exact h.read s (fun _ _ => Only.refl [] [] _) rfl
  | sta _ | stx _ | sty _ | sax _ => cases hx; exact h.write s (by rintro rfl; rfl)
  | inc _ | dec _ => cases hx; exact h.modify s (fun _ _ _ => Only.setNZ _ _) rfl (by rintro rfl; decide)
  | asl _ | lsr _ | rol _ | ror _ =>
    cases hx
    exact h.modify s (fun _ _ _ => (Only.setFlag _ _ _).comp (Only.setNZ _ _)) rfl (by rintro rfl; decide)
  | slo _ | rla _ | sre _ =>
    cases hx
    exact h.modify s (fun _ _ _ => (Only.setFlag _ _ _).comp (Only.loadA _ _)) rfl (by rintro rfl; decide)
  | rra _ =>
    cases hx
    exact h.modify s (fun _ _ _ => (Only.setFlag _ _ _).comp (Only.addWithCarry _ _)) rfl (by rintro rfl; decide)
  | dcp _ => cases hx; exact h.modify s (fun _ _ _ => Only.compare _ _ _) rfl (by rintro rfl; decide)
  | isb _ => cases hx; exact h.modify s (fun _ _ _ => Only.addWithCarry _ _) rfl (by rintro rfl; decide)
  | txa | tya => cases hx; exact h.plain (Only.loadA _ s) rfl
  | tax | tsx | inx | dex => cases hx; exact h.plain (Only.loadX _ s) rfl
  | tay | iny | dey => cases hx; exact h.plain (Only.loadY _ s) rfl
  | txs => cases hx; exact h.plain (Only.setSp _ s) rfl
  | clc | sec | cli | sei | clv | cld | sed => cases hx; exact h.plain (Only.setFlag _ _ s) rfl
  | nop | nopImp _ | nopImm _ _ => cases hx; exact h.plain (Only.refl [] [] s) rfl
  | brk =>
    cases hx
    exact h.plainInstr s ((h.stopped _ _).trans (h.only (Only.setFlag .b true s) rfl))
  | pha | php => cases hx; exact h.plainInstr s (h.push8 _ s (h.setSp rfl))
  | pla =>
    cases hx
    exact h.plainInstr s (by rw [pop8_eq]; exact h.only ((Only.setSp _ s).comp (Only.loadA _ _)) rfl)
  | plp =>
    cases hx
    exact h.plainInstr s (by rw [pop8_eq, h.status (by intro f; cases f <;> rfl)]; exact h.setSp rfl _ s)
  | rti =>
    obtain rfl := Host.Outcome.next.inj hx
    exact h.plainInstr s (by
      rw [returnFromInterrupt_eq, h.pc (by decide), h.status (by intro f; cases f <;> rfl)]
      exact h.setSp rfl _ s)
  | rts =>
    cases hx
    exact h.plainInstr s (by rw [pop16_eq, h.pc (by decide)]; exact h.setSp rfl _ s)
  | jsr _ =>
    cases hx
    rw [h.account, h.pc (by simp [Instr.mnemonic, pcWriters])]
    exact h.push16 _ s (h.setSp rfl)
  | jmpAbs _ =>
    cases hx
    rw [h.account, h.pc (by simp [Instr.mnemonic, pcWriters])]
  | jmpInd ptr =>
    cases hx
    rw [h.account, h.pc (by simp [Instr.mnemonic, pcWriters])]
    exact h.resolve (.ind ptr) s
  | bpl _ | bmi _ | bvc _ | bvs _ | bcc _ | bcs _ | bne _ | beq _ =>
    cases hx
    exact h.branch s (by simp [Instr.mnemonic, pcWriters])
  | xaa _ | lxa _ | ahx _ | tas _ | shy _ | shx _ | jam _ => cases hx; exact h.fault s _

end Sys2Proof.Machine
end

section
/-! The obligations on the state as a whole (10_state.md): the invariant, the frames, the fault record, the return
from an interrupt, and the host's operations. -/

namespace Sys2Proof.Proofs

open Sys2Proof.Machine

/-- Settles O40: a step makes accesses, which keep the invariant, and else changes nothing the invariant speaks of. -/
theorem stepKeepsInv : Obligations.StepKeepsInv := by
  intro s t hs h
  obtain ⟨u, hu, c, e, f, rfl⟩ := step_accesses h
  exact (hu.inv hs).of_accounting c e f

/-- Settles O19: each of the instructions is an operand read or modified and an addition, of which neither depends
on D or writes it. -/
theorem decimalHasNoEffect : Obligations.DecimalHasNoEffect := by
  intro i s d h
  have hc (t : State) : (t.setFlag .d d).flag .c = t.flag .c := State.setFlag_flag .d .c d t
  cases i with
  | adc _ =>
    exact ⟨_, rfl, congrArg Host.Outcome.next
      (readInstr_setFlag .d d s fun b t => State.addWithCarry_setD b d t)⟩
  | sbc _ | sbcEB _ =>
    exact ⟨_, rfl, congrArg Host.Outcome.next
      (readInstr_setFlag .d d s fun b t => State.addWithCarry_setD (~~~b) d t)⟩
  | rra _ =>
    refine ⟨_, rfl, congrArg Host.Outcome.next (modifyInstr_setFlag .d d s (fun b t => ?_) fun b r t => ?_)⟩
    · rw [hc]
    · rw [← State.setFlag_d_comm (by decide), State.addWithCarry_setD]
  | isb _ =>
    exact ⟨_, rfl, congrArg Host.Outcome.next
      (modifyInstr_setFlag .d d s (fun _ _ => rfl) fun _ r t => State.addWithCarry_setD (~~~r) d t)⟩
  | _ => simp [Instr.mnemonic] at h

/-- Settles O43: a step's accesses leave the cartridge and the pending marker alone, and so does how it ends. -/
theorem stepKeepsCartridge : Obligations.StepKeepsCartridge := by
  intro s t h
  obtain ⟨u, hu, c, e, f, rfl⟩ := step_accesses h
  exact ⟨hu.prg, hu.bank, hu.chr, hu.mirroring, hu.pending⟩

/-- Settles O45: a flag the instruction is not listed for is a reading it leaves as it was. -/
theorem flagWriters : Obligations.FlagWriters :=
  fun _ _ _ _ hx hf => exec_unlisted (Unlisted.flag hf) hx

/-- Settles O46: so is a register a well-formed instruction is not listed for, and PC, where it is no control
transfer. -/
theorem registerWriters : Obligations.RegisterWriters :=
  fun _ _ _ hwf hx => ⟨fun _ hr => exec_unlisted (Unlisted.reg hwf hr) hx,
    fun hpc => exec_unlisted (Unlisted.programCounter hpc) hx⟩

/-- Settles O56: the return pops what the entry pushed. -/
theorem entryThenRti : Obligations.EntryThenRti := by
  intro k s at_ hu
  have hret : exec .rti ((deliver k s).setPc at_) =
      .next (account .rti false 0 ((((deliver k s).setSp s.sp).setP (withFlag .b false s.p)).setPc s.pc)) := by
    rw [← returnFromInterrupt_deliver k s at_ hu]
    rfl
  refine ⟨_, hret, rfl, fun r => ?_, fun f hf => ?_, ?_, ?_, ?_⟩
  · by_cases hr : r = .sp
    · subst hr; rfl
    · simp [hr, deliver_reg]
  · exact (withFlag_bit .b f false s.p).trans (if_neg hf)
  · exact withFlag_bit .b .b false s.p
  · exact (withFlag_unused .b false s.p).trans hu
  · show (deliver k s).pending = some k
    rw [deliver_eq]
    rfl

/-- Settles O59: no step is taken, no operation clears the record, and the run loop stops where it stands. -/
theorem faultIsNeverCleared : Obligations.FaultIsNeverCleared := by
  refine ⟨fun s f h => step_of_fault h, ?_, fun f n s hs => ?_⟩
  · rintro r op s t hs hop ⟨n, h⟩
    exact HostOp.apply_fault_ne_none hs hop h
  · rw [runFor_state_of_fault f n hs]
    exact hs

/-- Settles O41: nothing is listed in RAM or program ROM, and 0x34 has bit U. -/
theorem resetInv : Obligations.ResetInv where
  ram := Memory.wf_nil _
  prg := Memory.wf_nil _
  unused := by decide

/-- Settles O53: a bank of zero bytes lists nothing, so the reset vector holds 0x0000. -/
theorem resetStateIsReset : Obligations.ResetStateIsReset := by
  refine ⟨_, powerOn_of_length (k := .full) List.length_replicate, ?_⟩
  have hprg : Memory.ofBytes (List.replicate 0x8000 0x00) = [] :=
    Memory.ofBytesFrom_replicate_unlisted 0x8000 0
  simp only [hprg]
  rfl

/-- Settles O60: each clause is what the operation comes to. -/
theorem hostOperations : Obligations.HostOperations := by
  intro r s cart v
  refine ⟨rfl, replaceCartridge_of_bad_length, fun k hk => ?_, hostWriteP_unused v s, hostWriteP_flag v s,
    fun bytes t => ?_, fun bytes h => loadAndRun_too_long h⟩
  · exact ⟨Memory.ofBytes cart.prg, fun j _ => Memory.read_ofBytes cart.prg j, Memory.wf_ofBytes hk.le,
      replaceCartridge_of_length hk⟩
  · rw [loadAndRun_returns_next_iff]
    constructor
    · rintro ⟨u, e, hl, n, hr⟩
      exact ⟨u, e, hl, ⟨n, hr⟩, runFor_quiet_ended hr⟩
    · rintro ⟨u, e, hl, hr, -⟩
      exact ⟨u, e, hl, hr⟩

end Sys2Proof.Proofs
end

section
/-! The address decoder in natural numbers (R80, R81): where an access to each range of addresses goes. -/

namespace Sys2Proof.Machine

theorem inRam_of_lt {a : Word} (h : a.toNat < 0x2000) : inRam a = true := by simp [inRam_eq, h]

theorem inRam_of_le {a : Word} (h : 0x2000 ≤ a.toNat) : inRam a = false := by simp [inRam_eq, h]

theorem inRom_of_le {a : Word} (h : 0x8000 ≤ a.toNat) : inRom a = true := by simp [inRom_eq, h]

theorem inRom_of_lt {a : Word} (h : a.toNat < 0x8000) : inRom a = false := by simp [inRom_eq, h]

theorem inVideo_of_range {a : Word} (h1 : 0x2000 ≤ a.toNat) (h2 : a.toNat < 0x4000) : inVideo a = true := by
  simp [inVideo_eq, h1, h2]

theorem inVideo_of_le {a : Word} (h : 0x4000 ≤ a.toNat) : inVideo a = false := by simp [inVideo_eq, h]

theorem eq_controllerPort_iff (a : Word) : a = Config.controllerPort ↔ a.toNat = 0x4016 := BitVec.toNat_inj.symm

theorem eq_dmaPort_iff (a : Word) : a = Config.dmaPort ↔ a.toNat = 0x4014 := BitVec.toNat_inj.symm

/-- The readable registers by address (R84). -/
theorem readableVideo_iff (r : Word) :
    readableVideo r = true ↔ r.toNat = 0x2002 ∨ r.toNat = 0x2004 ∨ r.toNat = 0x2007 := by
  simp only [readableVideo, Bool.or_eq_true, decide_eq_true_eq, or_assoc, ← BitVec.toNat_inj]
  rfl

theorem readableVideo_of_le {a : Word} (h : 0x4000 ≤ a.toNat) : readableVideo a = false := by
  rw [Bool.eq_false_iff, Ne, readableVideo_iff]
  omega

/-- A readable register is its own canonical address (R86). -/
theorem canonicalVideo_of_readable {r : Word} (h : readableVideo r = true) : canonicalVideo r = r := by
  rw [readableVideo_iff] at h
  rw [canonicalVideo_eq r (by omega) (by omega)]
  apply BitVec.eq_of_toNat_eq
  rw [BitVec.toNat_ofNat]
  omega

/-- Whether the canonical register of an address is readable depends on the address modulo 8 (R84, R86). -/
theorem readableVideo_canonical {a : Word} (h1 : 0x2000 ≤ a.toNat) (h2 : a.toNat < 0x4000) :
    readableVideo (canonicalVideo a) = decide (a.toNat % 8 ∈ [2, 4, 7]) := by
  rw [canonicalVideo_eq a h1 h2, readableVideo_eq _ (Nat.mod_lt _ (by decide))]

/-- A read in the video window goes where its canonical register's read goes. -/
theorem readTarget_video {a : Word} (h1 : 0x2000 ≤ a.toNat) (h2 : a.toNat < 0x4000) :
    readTarget a = if readableVideo (canonicalVideo a) then .video (canonicalVideo a) else .zero := by
  have hc : a ≠ Config.controllerPort := by rw [Ne, eq_controllerPort_iff]; omega
  simp only [readTarget, inRam_of_le h1, inVideo_of_range h1 h2, hc, Bool.false_eq_true, if_true, if_false]
  by_cases hr : readableVideo a = true
  · rw [canonicalVideo_of_readable hr, if_pos hr, if_pos hr]
  · rw [if_neg hr]

theorem readTarget_controller {a : Word} (h : a.toNat = 0x4016) : readTarget a = .controller := by
  rw [(eq_controllerPort_iff a).mpr h]
  decide

theorem readTarget_unmapped {a : Word} (h1 : 0x4000 ≤ a.toNat) (h2 : a.toNat < 0x8000) (hc : a.toNat ≠ 0x4016) :
    readTarget a = .zero := by
  simp [readTarget, inRam_of_le (show 0x2000 ≤ a.toNat by omega), eq_controllerPort_iff, hc, readableVideo_of_le h1,
    inVideo_of_le h1, inRom_of_lt h2]

theorem writeTarget_video {a : Word} (h1 : 0x2000 ≤ a.toNat) (h2 : a.toNat < 0x4000) :
    writeTarget a = .video (canonicalVideo a) := by
  have hc : a.toNat ≠ 0x4016 := by omega
  simp [writeTarget, inRam_of_le h1, eq_controllerPort_iff, hc, inVideo_of_range h1 h2]

theorem writeTarget_dma {a : Word} (h : a.toNat = 0x4014) : writeTarget a = .oamDma := by
  rw [(eq_dmaPort_iff a).mpr h]
  decide

theorem writeTarget_controller {a : Word} (h : a.toNat = 0x4016) : writeTarget a = .controller := by
  rw [(eq_controllerPort_iff a).mpr h]
  decide

theorem writeTarget_unmapped {a : Word} (h1 : 0x4000 ≤ a.toNat) (h2 : a.toNat < 0x8000) (hd : a.toNat ≠ 0x4014)
    (hc : a.toNat ≠ 0x4016) : writeTarget a = .dropped := by
  simp [writeTarget, inRam_of_le (show 0x2000 ≤ a.toNat by omega), eq_controllerPort_iff, eq_dmaPort_iff, hc, hd,
    inVideo_of_le h1, inRom_of_lt h2]

/-- Where a full bank stands in the ROM window (R88). -/
theorem romOffset_full {a : Word} (h : 0x8000 ≤ a.toNat) : romOffset .full a = a.toNat - 0x8000 :=
  sub_romBase_toNat a h

/-- A half bank stands in it twice (R88). -/
theorem romOffset_half {a : Word} (h : 0x8000 ≤ a.toNat) : romOffset .half a = (a.toNat - 0x8000) % 0x4000 :=
  congrArg (· % 0x4000) (sub_romBase_toNat a h)

/-- A read in the RAM window, by the number of its cell (R82). -/
theorem busRead_of_lt {a : Word} (s : State) (h : a.toNat < 0x2000) :
    busRead a s = (s.ram.read (a.toNat % 0x0800), s) := by
  rw [busRead_ram s (inRam_of_lt h), ramIndex_eq]

/-- A write in the RAM window, by the number of its cell (R82). -/
theorem busWrite_of_lt {a : Word} (v : Byte) (s : State) (h : a.toNat < 0x2000) :
    busWrite a v s = s.setRam (s.ram.write (a.toNat % 0x0800) v) := by
  rw [busWrite, writeTarget_of_inRam (inRam_of_lt h), ramIndex_eq]

end Sys2Proof.Machine
end

section
/-! The sprite DMA (R87): what a run of forwarded bytes adds to the history. -/

namespace Sys2Proof.Machine

/-- An event of the sprite DMA's write path. -/
def Event.isForwarded : Event → Bool
  | .videoOamDmaWrite _ => true
  | _ => false

/-- A read adds no forwarded byte to the history. -/
theorem busRead_forwards_nothing (a : Word) (s : State) :
    ∃ d es, (busRead a s).2 = { s with draws := d, events := es ++ s.events } ∧ es.filter Event.isForwarded = [] := by
  unfold busRead
  cases readTarget a with
  | ram | rom | zero => exact ⟨_, [], rfl, rfl⟩
  | controller => exact ⟨_, [.ctrlRead], rfl, rfl⟩
  | video r => exact ⟨_, [.videoRead r], rfl, rfl⟩

/-- A run of `n` bytes changes the history and the count of answers alone, and forwards `n` bytes. -/
theorem forwardBytes_forwards (n : Nat) (a : Word) (s : State) :
    ∃ d es, forwardBytes n a s = { s with draws := d, events := es ++ s.events } ∧
      (es.filter Event.isForwarded).length = n := by
  induction n generalizing a s with
  | zero => exact ⟨s.draws, [], rfl, rfl⟩
  | succ n ih =>
    obtain ⟨d, es, hread, hes⟩ := busRead_forwards_nothing a s
    obtain ⟨d', fs, hrest, hfs⟩ := ih (a + 1) ((busRead a s).2.record (.videoOamDmaWrite (busRead a s).1))
    refine ⟨d', fs ++ .videoOamDmaWrite (busRead a s).1 :: es, ?_, ?_⟩
    · rw [forwardBytes, hrest, hread]
      simp [State.record]
    · rw [List.filter_append, List.filter_cons_of_pos rfl, hes, List.length_append, hfs]
      rfl

/-- The events of `n` bytes that stand from an address on and are forwarded in increasing order, newest first. -/
def forwardedFrom (s : State) (n : Nat) (a : Word) : List Event :=
  ((List.range n).map fun k => Event.videoOamDmaWrite (peek s (a + BitVec.ofNat 16 k))).reverse

/-- Increasing an address in one step or in two. -/
theorem add_one_add_ofNat (a : Word) (k : Nat) : a + 1 + BitVec.ofNat 16 k = a + BitVec.ofNat 16 (k + 1) := by
  bv_omega

/-- The first byte is the oldest event. -/
theorem forwardedFrom_succ (s : State) (n : Nat) (a : Word) :
    forwardedFrom s (n + 1) a = forwardedFrom s n (a + 1) ++ [.videoOamDmaWrite (peek s a)] := by
  simp only [forwardedFrom, List.range_succ_eq_map, List.map_cons, List.map_map, List.reverse_cons, Function.comp_def,
    add_one_add_ofNat, BitVec.add_zero, Nat.succ_eq_add_one]

/-- Where no external agent answers, the bytes forwarded are those that stand there (R76, R87). -/
theorem forwardBytes_of_not_answered (n : Nat) (a : Word) (s : State)
    (h : ∀ k, k < n → answered (a + BitVec.ofNat 16 k) = false) :
    forwardBytes n a s = { s with events := forwardedFrom s n a ++ s.events } := by
  induction n generalizing a s with
  | zero => rfl
  | succ n ih =>
    have hfirst : busRead a s = (peek s a, s) := busRead_of_not_answered s (by simpa using h 0 n.succ_pos)
    have hrest : ∀ k, k < n → answered (a + 1 + BitVec.ofNat 16 k) = false := fun k hk => by
      rw [add_one_add_ofNat]
      exact h (k + 1) (Nat.succ_lt_succ hk)
    rw [forwardBytes, hfirst, ih _ _ hrest, forwardedFrom_succ, List.append_assoc]
    rfl

/-- The addresses of a page (R87). -/
theorem word16_zero_add (v : Byte) (k : Nat) :
    word16 v 0x00 + BitVec.ofNat 16 k = BitVec.ofNat 16 (v.toNat * 256 + k) := by
  apply BitVec.eq_of_toNat_eq
  rw [BitVec.toNat_add, word16_toNat, BitVec.toNat_ofNat, BitVec.toNat_ofNat]
  simp

end Sys2Proof.Machine
end

section
/-! The fetch of an implemented instruction, byte by byte (R121), and the bytes the decoder takes by their number. -/

namespace Sys2Proof.Machine

theorem decode_of_length_one {op : Byte} (rest : List Byte) (h : (descriptor op).length = 1) :
    decode (op :: rest) = .ok (assemble op 0 0, rest) := by
  simp [decode, h]

theorem decode_of_length_two {op : Byte} (b1 : Byte) (rest : List Byte) (h : (descriptor op).length = 2) :
    decode (op :: b1 :: rest) = .ok (assemble op b1 0, rest) := by
  simp [decode, h]

theorem decode_of_length_three {op : Byte} (b1 b2 : Byte) (rest : List Byte) (h : (descriptor op).length = 3) :
    decode (op :: b1 :: b2 :: rest) = .ok (assemble op b1 b2, rest) := by
  simp [decode, h]

/-- A step of an implemented opcode runs what its bytes assemble to, after the accesses of its operand bytes, with PC
past the bytes of its length (R120, R121). -/
theorem step_of_operandBytes {s s1 s2 s3 : State} {op b1 b2 : Byte} (hf : s.fault = none)
    (hop : busRead s.pc { s with stopped := false } = (op, s1)) (hi : (descriptor op).implemented = true)
    (h1 : operandByte (descriptor op) 1 (s.pc + 1) s1 = (b1, s2))
    (h2 : operandByte (descriptor op) 2 (s.pc + 2) s2 = (b2, s3)) :
    step s = exec (assemble op b1 b2) { s3 with pc := s.pc + BitVec.ofNat 16 (descriptor op).length } := by
  rw [step_eq s hf, fetch_eq s s1 op hop, h1, h2, Descriptor.consumed, if_pos hi]
  rfl

end Sys2Proof.Machine
end

section
/-! A return right after a call (R103, R306). -/

namespace Sys2Proof.Machine

/-- A 16-bit pop gives back what was pushed last, wherever RAM and SP are still as the push left them. -/
theorem pop16_of_push16 {w : Word} {s t : State} (hram : t.ram = (push16 w s).ram) (hsp : t.sp = (push16 w s).sp) :
    pop16 t = (w, t.setSp s.sp) := by
  obtain ⟨hw, hs⟩ := pop16_push16 w s
  rw [pop16_eq, ← hram, ← hsp] at hw hs
  rw [pop16_eq]
  exact Prod.ext hw (congrArg (t.setSp ·) hs)

/-- What a call comes to (R292). -/
theorem exec_jsr (w : Word) (s : State) : exec (.jsr w) s = .next (charge 6 ((push16 (s.pc - 1) s).setPc w)) := rfl

/-- What a return comes to (R293). -/
theorem exec_rts (s : State) : exec .rts s = .next (charge 6 ((pop16 s).2.setPc ((pop16 s).1 + 1))) := rfl

/-- What a call and a return right after it, wherever it stands, come to: the two charges, and the two bytes of the
call in RAM; PC and SP are back where they were. -/
theorem exec_rts_after_jsr (w at_ : Word) (s : State) :
    exec .rts ((charge 6 ((push16 (s.pc - 1) s).setPc w)).setPc at_) =
      .next (charge 6 (charge 6 (s.setRam (push16 (s.pc - 1) s).ram))) := by
  have hpc : s.pc - 1 + 1 = s.pc := by bv_omega
  rw [exec_rts, pop16_of_push16 (w := s.pc - 1) (s := s), hpc, push16_eq]
  · rfl
  · rfl
  · rfl

/-- A change of RAM changes no register and no flag. -/
theorem Frame.setRam (m : Memory) (s : State) : Frame [] [] s (s.setRam m) where
  reg r _ := by cases r <;> rfl
  flag _ _ := rfl
  pending := rfl
  fault := rfl
  stopped := rfl
  bank := rfl
  chr := rfl
  mirroring := rfl

end Sys2Proof.Machine
end

section
/-! The obligations on memory and the bus (20_memory.md): the two maps, the mirrors of RAM, the sprite DMA, the fetch
through the bus, and the return from a call. -/

namespace Sys2Proof.Proofs

open Sys2Proof.Machine

/-- Settles O7: each operand byte the length has is one bus read, and each it does not have is no access. -/
theorem stepFetchesThroughBus : Obligations.StepFetchesThroughBus := by
  intro s s1 op hf hop hi hnop
  have hread := readsOperands_of_implemented op hi hnop
  refine ⟨fun hl => ?_, fun b1 s2 h1 => ⟨fun hl => ?_, fun b2 s3 h2 hl => ?_⟩⟩
  · refine ⟨_, decode_of_length_one [] hl, ?_⟩
    rw [step_of_operandBytes hf hop hi (operandByte_absent (by omega)) (operandByte_absent (by omega)), hl]
    rfl
  · refine ⟨_, decode_of_length_two b1 [] hl, ?_⟩
    rw [step_of_operandBytes hf hop hi ((operandByte_read hread (by omega)).trans h1)
      (operandByte_absent (by omega)), hl]
    rfl
  · refine ⟨_, decode_of_length_three b1 b2 [] hl, ?_⟩
    rw [step_of_operandBytes hf hop hi ((operandByte_read hread (by omega)).trans h1)
      ((operandByte_read hread (by omega)).trans h2), hl]
    rfl

/-- Settles O27: the return pops the word that the call pushed, one less than the PC it returns to. -/
theorem jsrThenRts : Obligations.JsrThenRts := by
  intro s w at_
  refine ⟨_, _, exec_jsr w s, exec_rts_after_jsr w at_ s, rfl, ?_, rfl, rfl⟩
  exact (Frame.setRam _ s).trans ((Frame.charge [] [] 6 _).trans (Frame.charge [] [] 6 _))

/-- Settles O47: each clause is the read of the target its addresses decode to. -/
theorem busReadMap : Obligations.BusReadMap := by
  intro a s
  refine ⟨busRead_of_lt s, fun h1 h2 hm => ?_, fun h1 h2 hm => ?_, fun h => ?_, fun h1 h2 hc => ?_,
    fun h hb => ?_, fun h hb => ?_⟩
  · rw [busRead, readTarget_video h1 h2, readableVideo_canonical h1 h2, decide_eq_true hm, canonicalVideo_eq a h1 h2]
    rfl
  · rw [busRead, readTarget_video h1 h2, readableVideo_canonical h1 h2, decide_eq_false hm]
    rfl
  · rw [busRead, readTarget_controller h]
    rfl
  · rw [busRead, readTarget_unmapped h1 h2 hc]
  · rw [busRead_rom s (inRom_of_le h), hb, romOffset_full h]
  · rw [busRead_rom s (inRom_of_le h), hb, romOffset_half h]

/-- Settles O48: each clause is the write to the target its addresses decode to. -/
theorem busWriteMap : Obligations.BusWriteMap := by
  intro a v s
  refine ⟨busWrite_of_lt v s, fun h1 h2 => ?_, fun h => ?_, fun h => ?_, fun h1 h2 hd hc => ?_, fun h => ?_⟩
  · rw [busWrite, writeTarget_video h1 h2, canonicalVideo_eq a h1 h2]
    rfl
  · rw [busWrite, writeTarget_dma h]
  · rw [busWrite, writeTarget_controller h]
    rfl
  · rw [busWrite, writeTarget_unmapped h1 h2 hd hc]
  · rw [busWrite, writeTarget_of_inRom (inRom_of_le h)]
    rfl

/-- Settles O49: a read in the RAM window depends on the cell of its address alone. -/
theorem ramMirroring : Obligations.RamMirroring := by
  intro a b v s ha hb
  rw [busWrite_of_lt v s ha, busRead_of_lt _ hb, busRead_of_lt s hb, State.setRam_ram]
  refine ⟨fun h => ?_, fun h => Memory.read_write_other s.ram v (Ne.symm h)⟩
  rw [← h]
  exact Memory.read_write_same _ _ _

/-- Settles O50: the DMA is a run of 256 forwarded bytes from the start of the page. -/
theorem spriteDma : Obligations.SpriteDma := by
  intro v s
  refine ⟨forwardBytes_forwards 256 _ s, fun h => ?_⟩
  rw [oamDma, forwardBytes_of_not_answered 256 _ s fun k hk => by rw [word16_zero_add]; exact h k hk]
  simp only [forwardedFrom, word16_zero_add]

end Sys2Proof.Proofs
end

section
/-! The round trip between bytes and instructions (R125): a well-formed instruction is what its own opcode and operand
bytes assemble to, and the decoder assembles the bytes that the row's length has. -/

namespace Sys2Proof.Machine

/-- `i` has an opcode byte, and is what that byte and the operand bytes of `i` assemble to. -/
def Assembled (i : Instr) : Prop :=
  ∃ op, i.opcode = some op ∧ assemble op (i.operandBytes.getD 0 0) (i.operandBytes.getD 1 0) = i

/-- The operand of a mode, made of its own bytes (R126). -/
theorem operandOf_bytes (o : Operand) : operandOf o.mode (o.bytes.getD 0 0) (o.bytes.getD 1 0) = o := by
  cases o with
  | abs w | absx w | absy w | ind w => exact congrArg _ (word16_hi8_lo8 w)
  | acc | imm b | zp b | zpx b | zpy b | indx b | indy b | rel b => rfl

/-- An operand of a mode that a row of R152 lists is picked from an entry of its mode. -/
theorem exists_mem_row {row : List (Mode × Byte)} {ms : List Mode} {o : Operand} (hms : ms ⊆ row.map Prod.fst)
    (h : o.oneOf ms = true) : ∃ op, pick row o = some op ∧ (o.mode, op) ∈ row := by
  have hmode : o.mode ∈ row.map Prod.fst := hms (by simpa [Operand.oneOf] using h)
  obtain ⟨e, he, hfst⟩ := List.mem_map.mp hmode
  have hsome : (row.lookup o.mode).isSome = true := List.lookup_isSome_iff.mpr ⟨e, he, by simp [hfst]⟩
  obtain ⟨op, hop⟩ := Option.isSome_iff_exists.mp hsome
  obtain ⟨l₁, l₂, hrow, -⟩ := List.lookup_eq_some_iff.mp hop
  exact ⟨op, hop, by simp [hrow]⟩

/-- An instruction with an operand, whose row of R152 agrees with the opcode map entry by entry. -/
theorem Assembled.of_row {mk : Operand → Instr} {row : List (Mode × Byte)} {ms : List Mode} {o : Operand}
    (hop : (mk o).opcode = pick row o) (hbytes : (mk o).operandBytes = o.bytes) (hms : ms ⊆ row.map Prod.fst)
    (hrow : ∀ e ∈ row, ∀ b1 b2, assemble e.2 b1 b2 = mk (operandOf e.1 b1 b2)) (h : o.oneOf ms = true) :
    Assembled (mk o) := by
  obtain ⟨op, hpick, hmem⟩ := exists_mem_row hms h
  exact ⟨op, hop.trans hpick, by rw [hrow _ hmem, hbytes, operandOf_bytes]⟩

theorem assemble_nopMem {op : Byte} {m : Mode} (h : op ∈ nopMemOpcodes m) (b1 b2 : Byte) :
    assemble op b1 b2 = .nopMem op (operandOf m b1 b2) := by
  cases m with
  | zp | zpx | abs | absx => fin_cases h <;> rfl
  | imp | acc | imm | zpy | absy | ind | indx | indy | rel => cases h

/-- Decoding finds every instruction: no well-formed term is out of reach of the opcode map. -/
theorem assembled_of_wellFormed {i : Instr} (h : i.wellFormed = true) : Assembled i := by
  cases i with
  | lda o | ldx o | ldy o | sta o | stx o | sty o | adc o | sbc o | cmp o | cpx o | cpy o | inc o | dec o | and o
  | ora o | eor o | bit o | asl o | lsr o | rol o | ror o | slo o | rla o | sre o | rra o | sax o | lax o | dcp o
  | isb o | ahx o =>
    exact Assembled.of_row rfl rfl (by decide) (by intro e he b1 b2; fin_cases he <;> rfl) h
  | jmpAbs w | jmpInd w | jsr w | las w | tas w | shy w | shx w => exact ⟨_, rfl, congrArg _ (word16_hi8_lo8 w)⟩
  | nopMem op o =>
    have hmem : op ∈ nopMemOpcodes o.mode := of_decide_eq_true h
    exact ⟨op, if_pos hmem, (assemble_nopMem hmem _ _).trans (congrArg _ (operandOf_bytes o))⟩
  | nopImp op | nopImm op _ | anc op _ | jam op =>
    have hmem := of_decide_eq_true h
    exact ⟨op, if_pos hmem, by clear h; fin_cases hmem <;> rfl⟩
  | _ => exact ⟨_, rfl, rfl⟩

/-- The bytes of what is assembled: the opcode, and the operand bytes that the length has (R126). -/
theorem encode_assemble (op b1 b2 : Byte) :
    encode (assemble op b1 b2) = op :: [b1, b2].take ((descriptor op).length - 1) := by
  rw [encode, assemble_opcode, assemble_operandBytes]

/-- The decoder takes as many operand bytes as the opcode's length has, and leaves the rest. -/
theorem decode_of_operandBytes {op : Byte} {bs : List Byte} (rest : List Byte)
    (h : bs.length + 1 = (descriptor op).length) :
    decode (op :: (bs ++ rest)) = .ok (assemble op (bs.getD 0 0) (bs.getD 1 0), rest) := by
  match bs with
  | [] => exact decode_of_length_one rest h.symm
  | [b1] => exact decode_of_length_two b1 rest h.symm
  | [b1, b2] => exact decode_of_length_three b1 b2 rest h.symm
  | _ :: _ :: _ :: bs =>
    have hl := descriptor_length op
    simp only [List.length_cons] at h
    omega

/-- Three bytes always decode (R124, R125). -/
theorem decode_of_three_bytes (op b1 b2 : Byte) (rest : List Byte) :
    decode (op :: b1 :: b2 :: rest) =
      .ok (assemble op (if 1 < (descriptor op).length then b1 else 0) (if 2 < (descriptor op).length then b2 else 0),
        (op :: b1 :: b2 :: rest).drop (descriptor op).length) := by
  rcases descriptor_length op with h | h | h
  · rw [decode_of_length_one _ h, h]; rfl
  · rw [decode_of_length_two _ _ h, h]; rfl
  · rw [decode_of_length_three _ _ _ h, h]; rfl

/-- The number of operand bytes of such an instruction is that of its row. -/
theorem operandBytes_length_of_assemble {i : Instr} {op b1 b2 : Byte} (h : assemble op b1 b2 = i) :
    i.operandBytes.length + 1 = (descriptor op).length := by
  have hl := descriptor_length op
  rw [← h, assemble_operandBytes, List.length_take, List.length_cons, List.length_singleton]
  omega

theorem Assembled.decode_encode {i : Instr} (h : Assembled i) (rest : List Byte) :
    decode (encode i ++ rest) = .ok (i, rest) := by
  obtain ⟨op, hop, hi⟩ := h
  rw [encode, hop, List.cons_append, decode_of_operandBytes rest (operandBytes_length_of_assemble hi), hi]

end Sys2Proof.Machine
end

section
/-! The table of R152 against the opcode map: its entries are rows, and stand in a strict order, so that its 256 entries
are of 256 bytes. -/

namespace Sys2Proof.Machine

/-- The place of an entry in the order of R152: by mnemonic, then by mode, then by opcode byte. -/
def TableEntry.rank (e : TableEntry) : Nat := (e.mnemonic.ctorIdx * 16 + e.mode.ctorIdx) * 256 + e.op.toNat

/-- Each entry is the row of its byte in the opcode map (R150). -/
theorem mnemonicTable_row : ∀ e ∈ mnemonicTable,
    descriptor e.op = ⟨e.mnemonic, e.mode, modeLength e.mode, e.cycles, e.plus, e.implemented⟩ := by
  decide +kernel

/-- The entries stand strictly in that order. -/
theorem mnemonicTable_sorted : mnemonicTable.Pairwise (fun e f => e.rank < f.rank) := by
  have hranks : (mnemonicTable.map TableEntry.rank).IsChain (· < ·) := by decide +kernel
  exact List.pairwise_map.mp (List.isChain_iff_pairwise.mp hranks)

/-- An entry is determined by its byte, whose row it is. -/
theorem mnemonicTable_eq_of_op_eq {e f : TableEntry} (he : e ∈ mnemonicTable) (hf : f ∈ mnemonicTable)
    (h : e.op = f.op) : e = f := by
  have hrow := (mnemonicTable_row e he).symm.trans ((congrArg descriptor h).trans (mnemonicTable_row f hf))
  cases e
  cases f
  cases h
  cases hrow
  rfl

/-- No byte has two entries: the order is strict. -/
theorem mnemonicTable_bytes_nodup : (mnemonicTable.map fun e => e.op.toNat).Nodup := by
  refine List.pairwise_map.mpr (mnemonicTable_sorted.imp_of_mem fun {e f} he hf hlt hop => ?_)
  have heq := mnemonicTable_eq_of_op_eq he hf (BitVec.eq_of_toNat_eq hop)
  exact absurd hlt (by simp [heq])

/-- Every byte has an entry: there are 256 of them. -/
theorem mnemonicTable_bytes_perm : (mnemonicTable.map fun e => e.op.toNat).Perm (List.range 256) := by
  refine (List.subperm_of_subset mnemonicTable_bytes_nodup fun n hn => ?_).perm_of_length_le ?_
  · obtain ⟨e, -, rfl⟩ := List.mem_map.mp hn
    exact List.mem_range.mpr e.op.isLt
  · rw [List.length_map, List.length_range]
    decide +kernel

/-- So every byte has exactly one entry. -/
theorem mnemonicTable_one_entry (op : Byte) : (mnemonicTable.filter fun e => e.op == op).length = 1 := by
  have hbyte : (fun e : TableEntry => e.op == op) = (· == op.toNat) ∘ fun e => e.op.toNat := by
    funext e
    simp only [Function.comp, beq_eq_beq]
    exact BitVec.toNat_inj.symm
  calc (mnemonicTable.filter fun e => e.op == op).length
      = (mnemonicTable.map fun e => e.op.toNat).count op.toNat := by
        rw [← List.countP_eq_length_filter, hbyte, ← List.countP_map, List.count]
    _ = (List.range 256).count op.toNat := mnemonicTable_bytes_perm.count_eq _
    _ = 1 := List.count_eq_one_of_mem List.nodup_range (List.mem_range.mpr op.isLt)

/-- The page-boundary-sensitive opcodes (R151). -/
theorem pagePenalty_iff : ∀ op : Byte, (descriptor op).pagePenalty = true ↔
    op ∈ ([0x1D, 0x19, 0x11, 0x3D, 0x39, 0x31, 0x5D, 0x59, 0x51, 0x7D, 0x79, 0x71, 0xBD, 0xB9, 0xB1, 0xDD, 0xD9,
      0xD1, 0xFD, 0xF9, 0xF1, 0xBE, 0xBC, 0xBF, 0xB3, 0xBB, 0x1C, 0x3C, 0x5C, 0x7C, 0xDC, 0xFC] : List Byte) := by
  decide +kernel

/-- The opcodes behind the unimplemented marker (R153). -/
theorem implemented_eq_false_iff : ∀ op : Byte, (descriptor op).implemented = false ↔
    op ∈ ([0x02, 0x12, 0x22, 0x32, 0x42, 0x52, 0x62, 0x72, 0x92, 0xB2, 0xD2, 0xF2, 0x8B, 0xAB, 0x93, 0x9F, 0x9B,
      0x9C, 0x9E] : List Byte) := by
  decide +kernel

end Sys2Proof.Machine
end

section
/-! The steps by what they read (R121, R124, R332): those whose bytes no external agent answers, and those that read no
operand byte. -/

namespace Sys2Proof.Machine

/-- An operand byte that is not read, or that no external agent answers, is the byte that stands there (R76). -/
theorem operandByte_of_not_answered {d : Descriptor} {k : Nat} {a : Word} (s : State)
    (h : d.readsOperands = true → k < d.length → answered a = false) :
    operandByte d k a s = (if k < d.length then peek s a else 0, s) := by
  by_cases hr : d.readsOperands = true
  · by_cases hk : k < d.length
    · rw [operandByte_read hr hk, busRead_of_not_answered s (h hr hk), if_pos hk]
    · rw [operandByte_absent hk, if_neg hk]
  · exact operandByte_unread (Bool.eq_false_iff.mpr hr)

/-- The fetch where no external agent answers: the bytes that stand at PC, with no effect but on PC and the stop
signal. -/
theorem fetch_of_not_answered {s : State} (h0 : answered s.pc = false)
    (h1 : (descriptor (peek s s.pc)).readsOperands = true → 1 < (descriptor (peek s s.pc)).length →
      answered (s.pc + 1) = false)
    (h2 : (descriptor (peek s s.pc)).readsOperands = true → 2 < (descriptor (peek s s.pc)).length →
      answered (s.pc + 2) = false) :
    fetch s =
      (assemble (peek s s.pc) (if 1 < (descriptor (peek s s.pc)).length then peek s (s.pc + 1) else 0)
        (if 2 < (descriptor (peek s s.pc)).length then peek s (s.pc + 2) else 0),
      { s with stopped := false, pc := s.pc + BitVec.ofNat 16 (descriptor (peek s s.pc)).consumed }) := by
  rw [fetch_eq s _ _ (busRead_of_not_answered { s with stopped := false } h0)]
  simp only [peek_congr (s := s) (t := { s with stopped := false }) rfl rfl rfl]
  rw [operandByte_of_not_answered _ h1, operandByte_of_not_answered _ h2]
  rfl

theorem consumed_of_readsOperands {d : Descriptor} (h : d.readsOperands = true) : d.consumed = d.length :=
  if_pos (Bool.and_eq_true_iff.mp h).1

theorem consumed_of_marked {d : Descriptor} (h : d.implemented = false) : d.consumed = 1 :=
  if_neg (Bool.eq_false_iff.mp h)

theorem consumed_nopImm {op : Byte} (h : op ∈ nopImmOpcodes) : (descriptor op).consumed = 2 := by
  fin_cases h <;> rfl

/-- An immediate NOP reads its opcode alone, any other instruction all that PC advances past (R332, R401). -/
theorem bytesRead_cases (i : Instr) : (∃ op b, i = .nopImm op b) ∧ bytesRead i = 1 ∨ bytesRead i = advance i := by
  unfold bytesRead
  split
  · exact .inl ⟨⟨_, _, rfl⟩, rfl⟩
  · exact .inr rfl

/-- Every step reads its opcode. -/
theorem bytesRead_assemble_pos (op b1 b2 : Byte) : 0 < bytesRead (assemble op b1 b2) := by
  rcases bytesRead_cases (assemble op b1 b2) with ⟨-, h⟩ | h
  · omega
  · have hl := descriptor_length op
    rw [h, advance_assemble, Descriptor.consumed]
    split <;> omega

/-- Only the opcodes of R332 assemble to an immediate NOP. -/
theorem mem_nopImmOpcodes_of_assemble {op b1 b2 op' b : Byte} (h : assemble op b1 b2 = .nopImm op' b) :
    op ∈ nopImmOpcodes := by
  have hwf := assemble_wellFormed op b1 b2
  have hop := assemble_opcode op b1 b2
  rw [h] at hwf hop
  have hmem : op' ∈ nopImmOpcodes := of_decide_eq_true hwf
  rw [Instr.opcode, if_pos hmem] at hop
  exact Option.some.inj hop ▸ hmem

/-- An instruction whose operand bytes are read has all its bytes read. -/
theorem bytesRead_assemble_of_readsOperands {op : Byte} (h : (descriptor op).readsOperands = true) (b1 b2 : Byte) :
    bytesRead (assemble op b1 b2) = (descriptor op).length := by
  rcases bytesRead_cases (assemble op b1 b2) with ⟨⟨op', b, hi⟩, -⟩ | hr
  · have hunread := readsOperands_nopImm op (mem_nopImmOpcodes_of_assemble hi)
    exact absurd h (Bool.eq_false_iff.mp hunread)
  · rw [hr, advance_assemble, consumed_of_readsOperands h]

/-- A step of an opcode whose operand bytes are not read, where its meaning does not depend on them. -/
theorem step_of_not_read {s s1 : State} {op : Byte} {f : State → State} (hf : s.fault = none)
    (hop : busRead s.pc { s with stopped := false } = (op, s1)) (hread : (descriptor op).readsOperands = false)
    (hx : ∀ b1 b2 t, exec (assemble op b1 b2) t = .next (f t)) :
    step s = .next (f (s1.setPc (s.pc + BitVec.ofNat 16 (descriptor op).consumed))) := by
  rw [step_eq s hf, fetch_eq s s1 op hop, operandByte_unread hread, operandByte_unread hread]
  exact hx _ _ _

/-- An opcode behind the unimplemented marker raises, whatever its operand bytes (R348 to R354). -/
theorem exec_assemble_of_marked {op : Byte} (h : (descriptor op).implemented = false) (b1 b2 : Byte) (s : State) :
    exec (assemble op b1 b2) s = .next (raiseUnimplemented op s) := by
  have hmem := (implemented_eq_false_iff op).mp h
  clear h
  fin_cases hmem <;> rfl

theorem instrCost_nopImm {op : Byte} (h : op ∈ nopImmOpcodes) (b : Byte) : instrCost (.nopImm op b) false = 2 := by
  fin_cases h <;> rfl

/-- An immediate NOP is charged 2 cycles, whatever its operand byte (R332). -/
theorem exec_assemble_nopImm {op : Byte} (h : op ∈ nopImmOpcodes) (b1 b2 : Byte) (s : State) :
    exec (assemble op b1 b2) s = .next (charge 2 s) := by
  rw [assemble_nopImm op h, ← instrCost_nopImm h b1, ← account_eq_charge]
  rfl

end Sys2Proof.Machine
end

section
/-! The stop signal (R120, R304, log 4): the fetch clears it, and no meaning but that of BRK writes it. -/

namespace Sys2Proof.Machine

theorem operandByte_stopped (d : Descriptor) (k : Nat) (a : Word) (s : State) :
    (operandByte d k a s).2.stopped = s.stopped := by
  unfold operandByte
  split_ifs
  · exact busRead_snd_stopped a s
  · rfl
  · rfl

theorem fetch_stopped (s : State) : (fetch s).2.stopped = false := by
  simp [fetch, operandByte_stopped]

/-- Opcode 0x00 is BRK, and no other (R150). -/
theorem assemble_eq_brk_iff (op b1 b2 : Byte) : assemble op b1 b2 = .brk ↔ op = 0x00 := by
  constructor
  · intro h
    have hop := assemble_opcode op b1 b2
    rw [h] at hop
    exact (Option.some.inj hop).symm
  · rintro rfl
    rfl

theorem fetch_eq_brk_iff (s : State) :
    (fetch s).1 = .brk ↔ (busRead s.pc { s with stopped := false }).1 = 0x00 :=
  assemble_eq_brk_iff _ _ _

theorem exec_brk_stopped {s t : State} (h : exec .brk s = .next t) : t.stopped = true := by
  cases h
  rfl

theorem exec_stopped {i : Instr} {s t : State} (hbrk : i ≠ .brk) (hx : exec i s = .next t) :
    t.stopped = s.stopped := by
  have stable : Stable (fun s : State => s.stopped) := Stable.stopped
  cases i with
  | brk => exact absurd rfl hbrk
  | lda _ | ldx _ | ldy _ | adc _ | sbc _ | sbcEB _ | cmp _ | cpx _ | cpy _ | and _ | ora _ | eor _ | bit _ | lax _
  | las _ | anc _ _ | alr _ | arr _ | axs _ | nopMem _ _ =>
    cases hx
    exact stable.readInstr s fun _ _ => rfl
  | sta _ | stx _ | sty _ | sax _ =>
    cases hx
    exact stable.writeInstr_setA s fun _ _ => rfl
  | inc _ | dec _ | asl _ | lsr _ | rol _ | ror _ | slo _ | rla _ | sre _ | rra _ | dcp _ | isb _ =>
    cases hx
    exact stable.modifyInstr s (fun _ _ => .inl rfl) fun _ _ _ => rfl
  | bpl _ | bmi _ | bvc _ | bvs _ | bcc _ | bcs _ | bne _ | beq _ =>
    cases hx
    exact stable.branchInstr s fun _ _ => rfl
  | tax | tay | txa | tya | tsx | txs | inx | iny | dex | dey | clc | sec | cli | sei | clv | cld | sed | nop
  | nopImp _ | nopImm _ _ =>
    cases hx
    exact stable.plainInstr s rfl
  | pha | php =>
    cases hx
    exact stable.plainInstr s (stable.push8 _ s fun _ _ => rfl)
  | pla | plp =>
    cases hx
    exact stable.plainInstr s (by rw [pop8_eq]; rfl)
  | rts =>
    cases hx
    exact stable.plainInstr s (by rw [pop16_eq]; rfl)
  | rti =>
    obtain rfl := Host.Outcome.next.inj hx
    exact stable.plainInstr s (by rw [returnFromInterrupt_eq]; rfl)
  | jmpAbs _ =>
    cases hx
    rfl
  | jmpInd ptr =>
    cases hx
    exact stable.resolve (.ind ptr) s
  | jsr _ =>
    cases hx
    rw [account_stopped, State.setPc_stopped]
    exact stable.push16 _ s fun _ _ => rfl
  | xaa _ | lxa _ | ahx _ | tas _ | shy _ | shx _ | jam _ =>
    cases hx
    rfl

end Sys2Proof.Machine
end

section
/-! The costs by mode (R151, R152), read off the rows of the opcode map that an instruction's modes have. -/

namespace Sys2Proof.Machine

/-- An instruction with an operand whose rows of the opcode map have the costs and the page marks given by mode. -/
theorem instrCost_of_row {mk : Operand → Instr} {row : List (Mode × Byte)} {ms paged : List Mode}
    {cycles : Mode → Nat} {o : Operand} (hop : (mk o).opcode = pick row o) (hms : ms ⊆ row.map Prod.fst)
    (hrow : ∀ e ∈ row, (descriptor e.2).baseCycles = cycles e.1 ∧
      (descriptor e.2).pagePenalty = decide (e.1 ∈ paged))
    (h : o.oneOf ms = true) (crossed : Bool) :
    instrCost (mk o) crossed = cycles o.mode + (if o.mode ∈ paged ∧ crossed = true then 1 else 0) := by
  obtain ⟨op, hpick, hmem⟩ := exists_mem_row hms h
  obtain ⟨hcycles, hpaged⟩ := hrow _ hmem
  simp only [instrCost, Instr.baseCycles, Instr.pagePenalty, hop, hpick, hcycles, hpaged, decide_eq_true_eq]

/-- The same where no mode is page-boundary-sensitive. -/
theorem instrCost_of_unpaged_row {mk : Operand → Instr} {row : List (Mode × Byte)} {ms : List Mode}
    {cycles : Mode → Nat} {o : Operand} (hop : (mk o).opcode = pick row o) (hms : ms ⊆ row.map Prod.fst)
    (hrow : ∀ e ∈ row, (descriptor e.2).baseCycles = cycles e.1 ∧ (descriptor e.2).pagePenalty = false)
    (h : o.oneOf ms = true) (crossed : Bool) : instrCost (mk o) crossed = cycles o.mode := by
  simpa using instrCost_of_row (paged := []) hop hms (by simpa using hrow) h crossed

theorem nopMem_row {op : Byte} {m : Mode} (h : op ∈ nopMemOpcodes m) :
    (descriptor op).baseCycles = readCycles m ∧ (descriptor op).pagePenalty = decide (m ∈ pagedModes) := by
  cases m with
  | zp | zpx | abs | absx => fin_cases h <;> exact ⟨rfl, rfl⟩
  | imp | acc | imm | zpy | absy | ind | indx | indy | rel => cases h

theorem instrCost_nopMem {op : Byte} {o : Operand} (h : op ∈ nopMemOpcodes o.mode) (crossed : Bool) :
    instrCost (.nopMem op o) crossed =
      readCycles o.mode + (if o.mode ∈ pagedModes ∧ crossed = true then 1 else 0) := by
  obtain ⟨hcycles, hpaged⟩ := nopMem_row h
  simp only [instrCost, Instr.baseCycles, Instr.pagePenalty, Instr.opcode, if_pos h, hcycles, hpaged,
    decide_eq_true_eq]

theorem instrCost_las (w : Word) (crossed : Bool) :
    instrCost (.las w) crossed = 4 + (if crossed = true then 1 else 0) := by
  cases crossed <;> rfl

end Sys2Proof.Machine
end

section
/-! The addresses operands resolve to, in natural numbers (R134 to R138). -/

namespace Sys2Proof.Machine

/-- An index added in page 0 (R135). -/
theorem zeroPage_add_toNat (b c : Byte) : (zeroPage (b + c)).toNat = (b.toNat + c.toNat) % 256 := by
  rw [zeroPage_toNat, BitVec.toNat_add]

/-- An index added to an address (R136). -/
theorem add_zeroPage_toNat (w : Word) (b : Byte) : (w + zeroPage b).toNat = (w.toNat + b.toNat) % 65536 := by
  rw [BitVec.toNat_add, zeroPage_toNat]

/-- A pointer read in page 0, by the numbers of its two addresses. -/
theorem zeroPagePointer_toNat (z : Byte) (s : State) {n m : Nat} (hn : z.toNat = n) (hm : (z + 1).toNat = m) :
    (zeroPagePointer z s).1.toNat =
      (peek s (BitVec.ofNat 16 n)).toNat + 256 * (peek s (BitVec.ofNat 16 m)).toNat := by
  rw [zeroPagePointer_eq, word16_toNat, ofNat_eq_zeroPage n z hn, ofNat_eq_zeroPage m (z + 1) hm, peek_zeroPage,
    peek_zeroPage]
  omega

theorem resolve_indx (b : Byte) (s : State) :
    resolve (.indx b) s = ⟨(zeroPagePointer (b + s.x) s).1, false, s⟩ := by
  simp only [resolve, zeroPagePointer_eq]

theorem resolve_indy (b : Byte) (s : State) :
    resolve (.indy b) s =
      ⟨(zeroPagePointer b s).1 + zeroPage s.y,
        crosses (zeroPagePointer b s).1 ((zeroPagePointer b s).1 + zeroPage s.y), s⟩ := by
  simp only [resolve, zeroPagePointer_eq, zeroPage]

end Sys2Proof.Machine
end

section
/-! The obligations on encoding, decoding and operands (30_encoding.md): the round trip, the opcode table and the costs
by mode, the step as the run of the bytes at PC, the addressing modes, and the stop signal. -/

namespace Sys2Proof.Proofs

open Sys2Proof.Machine

/-- Settles O1: a well-formed instruction is what its own bytes assemble to. -/
theorem decodeOfEncode : Obligations.DecodeOfEncode :=
  fun _ rest h => (assembled_of_wellFormed h).decode_encode rest

/-- Settles O2: what is assembled keeps the opcode, and the operand bytes that the length has. -/
theorem encodeOfDecode : Obligations.EncodeOfDecode := by
  intro op b1 b2 rest
  have hl := descriptor_length op
  refine ⟨_, decode_of_three_bytes op b1 b2 rest, assemble_wellFormed _ _ _, ?_, ?_, by omega, by omega⟩
  · rw [assemble_mnemonic_any op _ _ 0 0, assemble_mnemonic]
  · rw [encode_assemble]
    rcases hl with h | h | h <;> rw [h] <;> rfl

/-- Settles O8: neither meaning depends on the operand bytes, which are not read. -/
theorem stepsThatReadNoOperand : Obligations.StepsThatReadNoOperand := by
  intro s s1 op hf hop
  refine ⟨fun hm => ?_, fun hn => ?_⟩
  · have hpc : s.pc + BitVec.ofNat 16 1 - 1 = s.pc := by bv_omega
    rw [step_of_not_read hf hop (readsOperands_of_marked op hm) (exec_assemble_of_marked hm), consumed_of_marked hm,
      raiseUnimplemented, State.setPc_pc, hpc]
    rfl
  · rw [step_of_not_read hf hop (readsOperands_nopImm op hn) (exec_assemble_nopImm hn), consumed_nopImm hn]
    rfl

/-- Settles O9: each mode is its address in natural numbers, and a page is crossed when the high byte changes. -/
theorem directModes : Obligations.DirectModes := by
  intro s b w
  exact ⟨rfl, rfl, rfl,
    ⟨_, rfl, zeroPage_toNat b⟩,
    ⟨_, rfl, zeroPage_add_toNat b s.x⟩,
    ⟨_, rfl, zeroPage_add_toNat b s.y⟩,
    ⟨_, _, rfl, add_zeroPage_toNat w s.x, crosses_iff _ _⟩,
    ⟨_, _, rfl, add_zeroPage_toNat w s.y, crosses_iff _ _⟩,
    ⟨_, _, rfl, branchTarget_toNat s b, crosses_iff _ _⟩⟩

/-- Settles O10: both pointers are read in page 0, where a read has no effect. -/
theorem pointerModes : Obligations.PointerModes := by
  intro s b
  refine ⟨⟨_, resolve_indx b s, zeroPagePointer_toNat (b + s.x) s (BitVec.toNat_add b s.x) ?_⟩,
    ⟨_, _, _, resolve_indy b s, zeroPagePointer_toNat b s rfl (BitVec.toNat_add b 1), add_zeroPage_toNat _ s.y,
      crosses_iff _ _⟩⟩
  rw [BitVec.toNat_add, BitVec.toNat_add]
  exact Nat.mod_add_mod _ _ _

/-- Settles O31: the fetch clears the signal, and what it fetched is BRK exactly for opcode 0x00. -/
theorem onlyBrkStops : Obligations.OnlyBrkStops := by
  intro s t h
  obtain ⟨-, hx⟩ := step_cases h
  rw [← fetch_eq_brk_iff]
  by_cases hbrk : (fetch s).1 = .brk
  · rw [hbrk] at hx
    exact iff_of_true (exec_brk_stopped hx) hbrk
  · rw [exec_stopped hbrk hx, fetch_stopped]
    exact iff_of_false Bool.false_ne_true hbrk

/-- Settles O3: the table of R152 holds each row of the opcode map once. -/
theorem opcodeTable : Obligations.OpcodeTable :=
  ⟨mnemonicTable_row, mnemonicTable_one_entry, implemented_eq_false_iff, pagePenalty_iff⟩

/-- Settles O4: the decoder evaluates to each of them. -/
theorem decodeWords : Obligations.DecodeWords :=
  ⟨rfl, rfl, rfl, rfl, rfl, rfl, rfl, rfl, rfl, rfl⟩

/-- Settles O5: the rows of each instruction have the costs and the page marks of its class. -/
theorem operandCosts : Obligations.OperandCosts := by
  refine ⟨fun mk hmk o crossed h => ?reads, fun op o crossed h => instrCost_nopMem (of_decide_eq_true h) crossed,
    instrCost_las, fun mk hmk o crossed h => ?stores, fun mk hmk o crossed h => ?modifies⟩
  case reads => fin_cases hmk <;> exact instrCost_of_row rfl (by decide) (by decide) h crossed
  case stores => fin_cases hmk <;> exact instrCost_of_unpaged_row rfl (by decide) (by decide) h crossed
  case modifies => fin_cases hmk <;> exact instrCost_of_unpaged_row rfl (by decide) (by decide) h crossed

/-- Settles O6: the fetch reads the bytes that stand at PC, and assembles what they decode to. -/
theorem stepRunsDecoded : Obligations.StepRunsDecoded := by
  intro s i rest hf hquiet hdecode
  rw [decode_of_three_bytes] at hdecode
  obtain ⟨rfl, -⟩ := Prod.mk.inj (Except.ok.inj hdecode)
  have hopcode : answered s.pc = false := by simpa using hquiet 0 (bytesRead_assemble_pos _ _ _)
  have hbyte (k : Nat) (hr : (descriptor (peek s s.pc)).readsOperands = true)
      (hk : k < (descriptor (peek s s.pc)).length) : answered (s.pc + BitVec.ofNat 16 k) = false :=
    hquiet k (by rwa [bytesRead_assemble_of_readsOperands hr])
  rw [step_eq s hf, fetch_of_not_answered hopcode (hbyte 1) (hbyte 2), advance_assemble]

/-- Settles O11: away from an external agent's address, resolving has no effect and the read gives what stands
there. -/
theorem operandAccess : Obligations.OperandAccess := by
  intro s
  refine ⟨⟨rfl, rfl⟩, fun _ => ⟨rfl, rfl⟩, fun o hacc himm => ?_⟩
  have hbus := operand_bus s hacc himm
  refine ⟨hbus, fun ha hm => ?_⟩
  rw [resolve_state s hm, busRead_of_not_answered s ha] at hbus
  exact Prod.mk.inj hbus

end Sys2Proof.Proofs
end

section
/-! Operand instructions by their rows of R152, and the flags that SetNZ leaves (R33). -/

namespace Sys2Proof.Machine

/-- An instruction with an operand, whose row and modes agree at every mode with the rows claimed. -/
theorem opcodesAre_of_row {mk : Operand → Instr} {row rows : List (Mode × Byte)} {ms : List Mode}
    (hop : ∀ o, (mk o).opcode = pick row o) (hwf : ∀ o, (mk o).wellFormed = o.oneOf ms)
    (hrow : ∀ m, row.lookup m = rows.lookup m) (hms : ∀ m, decide (m ∈ ms) = (rows.lookup m).isSome) :
    OpcodesAre mk rows := by
  intro o
  refine ⟨(hop o).trans (hrow o.mode), ?_⟩
  rw [hwf o, Operand.oneOf, hms o.mode]

/-- After SetNZ(`v`) on any P, Z and N are those of `v`. -/
theorem nzOf_of_p {t : State} {v p : Byte} (h : t.p = withNZ v p) : NZOf v t := by
  refine ⟨?_, ?_⟩ <;> rw [State.flag, h, withNZ_bit] <;> rfl

/-- A store instruction whose modes are neither ACC nor IND: the byte stored away from the ROM window, the fault
recorded in it (R402, R403). -/
theorem storeInstr_outcome {i : Instr} {o : Operand} {ms : List Mode} {v : Byte} {s : State}
    (hx : exec i s = .next (writeInstr i o v s)) (hacc : Mode.acc ∉ ms) (hind : Mode.ind ∉ ms)
    (h : o.oneOf ms = true) :
    (inRom (effectiveAddress o s) = false → ∃ t, exec i s = .next t ∧ StoreOutcome i o v s [] [] s t) ∧
    (inRom (effectiveAddress o s) = true → exec i s = .next (romFault o v s)) := by
  obtain ⟨ho, hm⟩ := oneOf_ne h hacc hind
  refine ⟨fun hrom => ⟨_, hx, writeOutcome i v s ho hm hrom⟩, fun hrom => ?_⟩
  rw [hx, writeInstr_fault v s ho hm hrom]
  rfl

end Sys2Proof.Machine
end

section
/-! The obligations on loads, stores and transfers (40_load_store_transfer.md). -/

namespace Sys2Proof.Proofs

open Sys2Proof.Machine

/-- Settles O12: each is an operand read whose effect is its register's load. -/
theorem loads : Obligations.Loads := by
  refine ⟨?_, ?_, ?_, fun o s => ⟨?lda, ?ldx, ?ldy⟩⟩
  case lda => exact ⟨_, rfl, readOutcome s Only.loadA, rfl, nzOf_of_p rfl⟩
  case ldx => exact ⟨_, rfl, readOutcome s Only.loadX, rfl, nzOf_of_p rfl⟩
  case ldy => exact ⟨_, rfl, readOutcome s Only.loadY, rfl, nzOf_of_p rfl⟩
  all_goals
    exact opcodesAre_of_row (fun _ => rfl) (fun _ => rfl) (fun m => by cases m <;> rfl) (fun m => by cases m <;> rfl)

/-- Settles O13: each is an operand written with its byte, in modes that resolve without an access. -/
theorem stores : Obligations.Stores := by
  refine ⟨?_, ?_, ?_, ?_, fun o s => ⟨?sta, ?stx, ?sty, ?sax⟩⟩
  case sta | stx | sty | sax => exact storeInstr_outcome rfl (by decide) (by decide)
  all_goals
    exact opcodesAre_of_row (fun _ => rfl) (fun _ => rfl) (fun m => by cases m <;> rfl) (fun m => by cases m <;> rfl)

/-- Settles O14: each is an effect on its destination alone, and for all but TXS on N and Z. -/
theorem transfers : Obligations.Transfers := by
  refine ⟨rfl, rfl, rfl, rfl, rfl, rfl, fun s => ⟨?tax, ?tay, ?txa, ?tya, ?tsx, ?txs⟩⟩
  case tax => exact ⟨_, rfl, plainOutcome s (Only.loadX s.a s) rfl, rfl, rfl, nzOf_of_p rfl⟩
  case tay => exact ⟨_, rfl, plainOutcome s (Only.loadY s.a s) rfl, rfl, rfl, nzOf_of_p rfl⟩
  case txa => exact ⟨_, rfl, plainOutcome s (Only.loadA s.x s) rfl, rfl, rfl, nzOf_of_p rfl⟩
  case tya => exact ⟨_, rfl, plainOutcome s (Only.loadA s.y s) rfl, rfl, rfl, nzOf_of_p rfl⟩
  case tsx => exact ⟨_, rfl, plainOutcome s (Only.loadX s.sp s) rfl, rfl, rfl, nzOf_of_p rfl⟩
  case txs => exact ⟨_, rfl, plainOutcome s (Only.setSp s.x s) rfl, rfl, rfl⟩

end Sys2Proof.Proofs
end

section
/-! What a push stores and a pull reads (R100, R101). -/

namespace Sys2Proof.Machine

/-- A push and its charge of 3 cycles: a bus write to the stack page, then SP lowered (R100, R230, R231). -/
theorem pushOutcome (v : Byte) (s : State) : PushOutcome v s (charge 3 (push8 v s)) := by
  have hmem : StoredAt (stackAddr s.sp) v s (charge 3 (push8 v s)) :=
    (storedAt_busWrite _ v s).congr (SameMemory.of_eq rfl rfl rfl) (SameMemory.of_eq rfl rfl rfl)
  rw [push8_eq] at hmem ⊢
  have hframe : Frame [.sp] [] s ((s.setRam (s.ram.write (0x100 + s.sp.toNat) v)).setSp (s.sp - 1)) :=
    ((Frame.setRam _ s).mono (by simp) (by simp)).trans (Only.setSp _ _).frame
  exact ⟨hframe.trans (Frame.charge _ _ _ _), rfl, rfl, rfl, hmem, rfl, rfl, rfl⟩

/-- The byte a pop gives is the one that stands at the raised SP (R101). -/
theorem pop8_eq_peek (s : State) : pop8 s = (peek s (stackAddr (s.sp + 1)), s.setSp (s.sp + 1)) := by
  rw [pop8_eq, peek_stackAddr]

/-- PLA raises SP and loads A with the byte there (R232). -/
theorem exec_pla (s : State) :
    exec .pla s = .next (plainInstr .pla (fun t => (t.setSp (t.sp + 1)).loadA (peek t (stackAddr (t.sp + 1)))) s) :=
  calc exec .pla s = .next (plainInstr .pla (fun t => (pop8 t).2.loadA (pop8 t).1) s) := rfl
    _ = _ := by simp only [pop8_eq_peek]

/-- PLP raises SP and takes P from the byte there by the raw import (R34, R233). -/
theorem exec_plp (s : State) :
    exec .plp s = .next (charge 4 ((s.setSp (s.sp + 1)).setP (importP (peek s (stackAddr (s.sp + 1)))))) :=
  calc exec .plp s = .next (charge 4 ((pop8 s).2.setP (importP (pop8 s).1))) := rfl
    _ = _ := by rw [pop8_eq_peek]

/-- A write of the whole of P changes no register; any flag may change. -/
theorem Frame.setP (regs : List Reg) (v : Byte) (s : State) :
    Frame regs [.n, .v, .b, .d, .i, .z, .c] s (s.setP v) where
  reg r _ := by cases r <;> rfl
  flag f h := absurd (by cases f <;> decide) h
  pending := rfl
  fault := rfl
  stopped := rfl
  bank := rfl
  chr := rfl
  mirroring := rfl

end Sys2Proof.Machine
end

section
/-! The obligations on the stack instructions (41_stack.md). -/

namespace Sys2Proof.Proofs

open Sys2Proof.Machine

/-- Settles O15: each is one push, PHA's of A and PHP's of P by the raw export. -/
theorem pushes : Obligations.Pushes :=
  ⟨rfl, rfl, fun s => ⟨⟨_, rfl, pushOutcome s.a s⟩, ⟨_, rfl, pushOutcome (exportP s.p) s⟩⟩⟩

/-- Settles O16: each is one pop, whose byte PLA loads into A and PLP imports into P. -/
theorem pulls : Obligations.Pulls := by
  refine ⟨rfl, rfl, ?_⟩
  rintro s _ rfl
  refine ⟨⟨_, exec_pla s, ?pla, rfl, rfl, rfl, nzOf_of_p rfl⟩,
    ⟨_, exec_plp s, ?plp, SameMemory.of_eq rfl rfl rfl, ⟨rfl, rfl, rfl⟩, rfl, rfl, rfl⟩⟩
  case pla =>
    have heffect := (Only.setSp (s.sp + 1) s).comp (Only.loadA (peek s (stackAddr (s.sp + 1))) _)
    exact plainOutcome s (heffect.mono (by simp) (by simp)) rfl
  case plp =>
    refine (Frame.trans ?_ (Frame.setP _ _ _)).trans (Frame.charge _ _ _ _)
    exact (Only.setSp _ s).frame.mono (fun _ => id) (List.forall_mem_nil _)

end Sys2Proof.Proofs
end

section
/-! What additions, comparisons and read-modify-write instructions leave (R240, R243, R330). -/

namespace Sys2Proof.Machine

/-- A, C, V, N and Z are those of a sum (R240). -/
structure SumLeft (r : Sum) (t : State) : Prop where
  a : t.a = r.result
  carry : t.flag .c = r.carry
  overflow : t.flag .v = r.overflow
  nz : NZOf t.a t

/-- AddWithCarry leaves the sum, and the charge after it keeps it. -/
theorem sumLeft_account (i : Instr) (crossed : Bool) (n : Nat) (b : Byte) (s : State) :
    SumLeft (addBytes s.a b (s.flag .c)) (account i crossed n (s.addWithCarry b)) where
  a := rfl
  carry := by simp
  overflow := by simp
  nz := nzOf_of_p rfl

/-- An instruction that adds to A a byte made of its operand: the operand's accesses change neither A nor C. -/
theorem sumLeft_readInstr (i : Instr) (o : Operand) (m : Byte → Byte) (s : State) :
    SumLeft (addBytes s.a (m (operandValue o s)) (s.flag .c))
      (readInstr i o (fun v t => t.addWithCarry (m v)) s) := by
  have h := sumLeft_account i (pageCrossed o s) 0 (m (operandValue o s)) (operandState o s)
  rwa [operandState_a, operandState_flag] at h

/-- The addition of ADC (R241). -/
theorem sumLeft_add (i : Instr) (o : Operand) (s : State) :
    SumLeft (addBytes s.a (operandValue o s) (s.flag .c)) (readInstr i o State.addWithCarry s) :=
  sumLeft_readInstr i o id s

/-- The addition of SBC, of the complement (R242). -/
theorem sumLeft_subtract (i : Instr) (o : Operand) (s : State) :
    SumLeft (addBytes s.a (~~~(operandValue o s)) (s.flag .c)) (readInstr i o (fun v t => t.addWithCarry (~~~v)) s) :=
  sumLeft_readInstr i o (~~~·) s

/-- An instruction that adds its operand's complement to A subtracts with borrow (R242, R346). -/
theorem subtractInstr_outcome {i : Instr} {o : Operand} {s : State} {c : Nat}
    (hx : exec i s = .next (readInstr i o (fun v t => t.addWithCarry (~~~v)) s))
    (hc : c = if s.flag .c then 1 else 0) :
    ∃ t, exec i s = .next t ∧ ReadOutcome i o [.a] [.c, .v, .n, .z] s t ∧
      t.a = s.a - operandValue o s - BitVec.ofNat 8 (1 - c) ∧
      (t.flag .c = true ↔ (operandValue o s).toNat + (1 - c) ≤ s.a.toNat) ∧
      t.flag .v = ((t.a ^^^ s.a) &&& (t.a ^^^ ~~~(operandValue o s))).getLsbD 7 ∧ NZOf t.a t := by
  subst hc
  have h := sumLeft_subtract i o s
  refine ⟨_, hx, readOutcome s fun v => Only.addWithCarry (~~~v), ?_, ?_, ?_, h.nz⟩
  · rw [h.a, addBytes_not_result]
  · rw [h.carry, addBytes_not_carry]
  · rw [h.overflow, h.a]
    rfl

/-- An instruction that compares a register with its operand (R243): the operand's accesses leave the register
alone. -/
theorem compareInstr_outcome {i : Instr} {o : Operand} (r : Reg) {s : State} {v : Byte}
    (hx : exec i s = .next (readInstr i o (fun b t => t.compare (t.reg r) b) s)) (hv : v = operandValue o s) :
    ∃ t, exec i s = .next t ∧ ReadOutcome i o [] [.c, .z, .n] s t ∧
      (t.flag .c = true ↔ v.toNat ≤ (s.reg r).toNat) ∧ (t.flag .z = true ↔ s.reg r = v) ∧
      t.flag .n = (s.reg r - v).getLsbD 7 := by
  have hflag (g : Flag) : (readInstr i o (fun b t => t.compare (t.reg r) b) s).flag g =
      ((operandState o s).compare (s.reg r) v).flag g := by
    rw [readInstr_eq, account_flag, (Stable.reg r).operandState o s, hv]
  have hframe : ∀ b t, Only [] [.c, .z, .n] t (State.compare (t.reg r) b t) :=
    fun b t => (Only.compare _ b t).mono (by simp) (by simp)
  refine ⟨_, hx, readOutcome s hframe, ?_, ?_, ?_⟩ <;> simp [hflag]

/-- A read-modify-write instruction on memory that makes `r` of its operand's byte: the byte stored and its effect
`g` away from the ROM window, the fault recorded in it (R330, R402, R403). -/
theorem modifyInstr_outcome {i : Instr} {o : Operand} {f : Byte → State → Byte} {g : Byte → Byte → State → State}
    {r : Byte} {regs : List Reg} {flags : List Flag} {s : State} {Q : State → Prop}
    (hx : exec i s = .next (modifyInstr i o f g s)) (ho : o ≠ .acc) (hm : o.mode ≠ .ind)
    (hr : f (operandValue o s) (operandState o s) = r) (hg : ∀ v w t, Only regs flags t (g v w t))
    (hQ : Q (account i (pageCrossed o s) 0
      (g (operandValue o s) r (busWrite (effectiveAddress o s) r (operandState o s))))) :
    (inRom (effectiveAddress o s) = false →
      ∃ t, exec i s = .next t ∧ StoreOutcome i o r (operandState o s) regs flags s t ∧ Q t) ∧
    (inRom (effectiveAddress o s) = true → exec i s = .next (romFault o r s)) := by
  refine ⟨fun hrom => ⟨_, hx, modifyOutcome s ho hrom hr hg, ?_⟩, fun hrom => ?_⟩
  · rw [modifyInstr_ok s ho hrom, hr]
    exact hQ
  · rw [hx, modifyInstr_romFault s ho hm hrom, ← hr, operandState_rom s hm hrom]

/-- Subtracting 1 modulo 256 adds 255. -/
theorem sub_one_toNat (b : Byte) : (b - 1).toNat = (b.toNat + 255) % 256 := by
  rw [BitVec.toNat_sub, Nat.add_comm]
  rfl

end Sys2Proof.Machine
end

section
/-! The obligations on arithmetic (42_arithmetic.md). -/

namespace Sys2Proof.Proofs

open Sys2Proof.Machine

/-- Settles O17: each is an operand read and one addition, SBC's of the complement. -/
theorem addSubtract : Obligations.AddSubtract := by
  refine ⟨?_, ?_, fun _ => rfl, fun o b s c hc => ⟨?adc, subtractInstr_outcome rfl hc, subtractInstr_outcome rfl hc⟩⟩
  case adc =>
    subst hc
    have h := sumLeft_add (.adc o) o s
    refine ⟨_, rfl, readOutcome s Only.addWithCarry, ?_, ?_, ?_, h.nz⟩
    · rw [h.a, addBytes_result]
    · rw [h.carry, addBytes_carry]
    · rw [h.overflow, h.a]
      rfl
  all_goals
    exact opcodesAre_of_row (fun _ => rfl) (fun _ => rfl) (fun m => by cases m <;> rfl) (fun m => by cases m <;> rfl)

/-- Settles O18: the sign-change rule is the signed overflow of a sum, and the complement's signed value is minus
the operand's, less one. -/
theorem overflowIsSigned : Obligations.OverflowIsSigned := by
  rintro o s _ rfl
  refine ⟨⟨_, rfl, ?adc⟩, ⟨_, rfl, ?sbc⟩⟩
  case adc => rw [← addBytes_overflow, ← (sumLeft_add (.adc o) o s).overflow]
  case sbc =>
    have hdiff (c : Int) : s.a.toInt - (operandValue o s).toInt - (1 - c) =
        s.a.toInt + (~~~(operandValue o s)).toInt + c := by
      rw [toInt_not]
      omega
    rw [hdiff, ← addBytes_overflow, ← (sumLeft_subtract (.sbc o) o s).overflow]

/-- Settles O20: each is an operand read and the comparison of its register. -/
theorem compares : Obligations.Compares := by
  refine ⟨?_, ?_, ?_, fun o s v hv =>
    ⟨compareInstr_outcome .a rfl hv, compareInstr_outcome .x rfl hv, compareInstr_outcome .y rfl hv⟩⟩
  all_goals
    exact opcodesAre_of_row (fun _ => rfl) (fun _ => rfl) (fun m => by cases m <;> rfl) (fun m => by cases m <;> rfl)

/-- Settles O21: each is a read-modify-write whose effect is SetNZ, in modes that are neither ACC nor IND. -/
theorem incDecMemory : Obligations.IncDecMemory := by
  refine ⟨?_, ?_, ?effect⟩
  case effect =>
    rintro o s _ rfl
    refine ⟨fun h => ?inc, fun h => ?dec⟩
    case inc | dec =>
      obtain ⟨ho, hm⟩ := oneOf_ne h (by decide) (by decide)
      exact modifyInstr_outcome rfl ho hm rfl (fun _ r t => Only.setNZ r t) (nzOf_of_p rfl)
  all_goals
    exact opcodesAre_of_row (fun _ => rfl) (fun _ => rfl) (fun m => by cases m <;> rfl) (fun m => by cases m <;> rfl)

/-- Settles O22: each is its register's load with the byte one above or below. -/
theorem incDecRegister : Obligations.IncDecRegister := by
  refine ⟨rfl, rfl, rfl, rfl, fun s => ⟨?inx, ?iny, ?dex, ?dey⟩⟩
  case inx => exact ⟨_, rfl, plainOutcome s (Only.loadX _ s) rfl, rfl, BitVec.toNat_add s.x 1, nzOf_of_p rfl⟩
  case iny => exact ⟨_, rfl, plainOutcome s (Only.loadY _ s) rfl, rfl, BitVec.toNat_add s.y 1, nzOf_of_p rfl⟩
  case dex => exact ⟨_, rfl, plainOutcome s (Only.loadX _ s) rfl, rfl, sub_one_toNat s.x, nzOf_of_p rfl⟩
  case dey => exact ⟨_, rfl, plainOutcome s (Only.loadY _ s) rfl, rfl, sub_one_toNat s.y, nzOf_of_p rfl⟩

end Sys2Proof.Proofs
end

section
/-! What a logical operation and a bit test leave (R270 to R273), and what a shift or rotate leaves, on the accumulator
and on memory (R274 to R277). -/

namespace Sys2Proof.Machine

/-- An instruction that combines its operand into A (R270 to R272): the operand's accesses leave A as it was. -/
theorem logicInstr_outcome (op : Byte → Byte → Byte) {i : Instr} {o : Operand} {s : State} {v : Byte}
    (hx : exec i s = .next (readInstr i o (fun b t => t.loadA (op t.a b)) s)) (hv : v = operandValue o s) :
    ∃ t, exec i s = .next t ∧ ReadOutcome i o [.a] [.n, .z] s t ∧ t.a = op s.a v ∧ NZOf t.a t := by
  refine ⟨_, hx, readOutcome s fun _ _ => Only.loadA _ _, ?_, nzOf_of_p rfl⟩
  simp [readInstr_eq, hv]

/-- The effect of BIT on the flags: Z from the conjunction with A, N and V from the operand (R273). -/
def bitTest (v : Byte) (t : State) : State :=
  ((t.setFlag .z (decide (t.a &&& v = 0))).setFlag .n (v.getLsbD 7)).setFlag .v (v.getLsbD 6)

theorem Only.bitTest (v : Byte) (t : State) : Only [] [.z, .n, .v] t (bitTest v t) :=
  ((Only.setFlag .z _ t).comp (Only.setFlag .n _ _)).comp (Only.setFlag .v _ _)

/-- The effect of a shift or rotate that made `r` of `v`: C is the ejected bit `k`, N and Z are those of `r`
(R274 to R277). -/
def shiftFlags (k : Nat) (v r : Byte) (t : State) : State := (t.setFlag .c (v.getLsbD k)).setNZ r

theorem Only.shiftFlags (k : Nat) (v r : Byte) (t : State) : Only [] [.c, .n, .z] t (shiftFlags k v r t) :=
  (Only.setFlag .c _ t).comp (Only.setNZ r _)

/-- The flags of a shift or rotate, which the charge after it keeps. -/
theorem account_shiftFlags (i : Instr) (crossed : Bool) (n k : Nat) (v r : Byte) (t : State) :
    (account i crossed n (shiftFlags k v r t)).flag .c = v.getLsbD k ∧
      NZOf r (account i crossed n (shiftFlags k v r t)) :=
  ⟨by simp [shiftFlags], nzOf_of_p rfl⟩

/-- A read-modify-write instruction on the accumulator is one without a data access. -/
theorem modifyInstr_acc_eq_plain (i : Instr) (f : Byte → State → Byte) (g : Byte → Byte → State → State) (s : State) :
    modifyInstr i .acc f g s = plainInstr i (fun t => g t.a (f t.a t) (t.setA (f t.a t))) s := rfl

theorem mode_ne_of_oneOf {o : Operand} {ms : List Mode} {m : Mode} (h : o.oneOf ms = true) (hm : m ∉ ms) :
    o.mode ≠ m := by
  rintro rfl
  exact hm (of_decide_eq_true h)

/-- A shift or rotate that makes `result b c` of a byte `b` and the old carry `c` and ejects bit `k`: on the
accumulator, on memory away from the ROM window, and in it (R274 to R277, R402, R403). -/
theorem shiftInstr_outcome {mk : Operand → Instr} {k : Nat} {f : Byte → State → Byte} (result : Byte → Bool → Byte)
    {o : Operand} {s : State} {v : Byte} {c : Bool}
    (hx : ∀ p, exec (mk p) s = .next (modifyInstr (mk p) p f (shiftFlags k) s))
    (hf : ∀ b t, f b t = result b (t.flag .c)) (hwf : (mk o).wellFormed = o.oneOf shiftModes)
    (hcost : (mk .acc).baseCycles = 2) (hv : v = operandValue o s) (hc : c = s.flag .c) :
    (∃ t, exec (mk .acc) s = .next t ∧ PlainOutcome 2 [.a] [.c, .n, .z] s t ∧ t.pc = s.pc ∧
      t.a = result s.a c ∧ t.flag .c = s.a.getLsbD k ∧ NZOf t.a t) ∧
    (∀ r, (mk o).wellFormed = true → o ≠ .acc → r = result v c →
      (inRom (effectiveAddress o s) = false →
        ∃ t, exec (mk o) s = .next t ∧ StoreOutcome (mk o) o r (operandState o s) [] [.c, .n, .z] s t ∧
          t.flag .c = v.getLsbD k ∧ NZOf r t) ∧
      (inRom (effectiveAddress o s) = true → exec (mk o) s = .next (romFault o r s))) := by
  subst hv hc
  refine ⟨?acc, fun r h ho hr => ?memory⟩
  case acc =>
    have heffect : Only [.a] [.c, .n, .z] s (shiftFlags k s.a (f s.a s) (s.setA (f s.a s))) :=
      (Only.setA _ s).comp (Only.shiftFlags k s.a _ _)
    obtain ⟨hcarry, hnz⟩ := account_shiftFlags (mk .acc) false 0 k s.a (f s.a s) (s.setA (f s.a s))
    rw [hx, modifyInstr_acc_eq_plain]
    exact ⟨_, rfl, plainOutcome s heffect hcost, rfl, hf s.a s, hcarry, hnz⟩
  case memory =>
    have hmode : o.mode ≠ .ind := mode_ne_of_oneOf (hwf ▸ h) (by decide)
    have hresult : f (operandValue o s) (operandState o s) = r := by rw [hf, operandState_flag, hr]
    exact modifyInstr_outcome (hx o) ho hmode hresult (Only.shiftFlags k) (account_shiftFlags ..)

end Sys2Proof.Machine
end

section
/-! The obligations on logic, shifts and rotates (43_logic_shift.md). -/

namespace Sys2Proof.Proofs

open Sys2Proof.Machine

/-- Settles O23: each is an operand read, whose effect is A's load with the combined byte or, for BIT, on the flags
alone. -/
theorem logicAndBit : Obligations.LogicAndBit := by
  refine ⟨?_, ?_, ?_, ?_, fun o s v hv => ⟨logicInstr_outcome (· &&& ·) rfl hv, logicInstr_outcome (· ||| ·) rfl hv,
    logicInstr_outcome (· ^^^ ·) rfl hv, ⟨_, rfl, readOutcome s Only.bitTest, ?bit⟩⟩⟩
  case bit => simp [readInstr_eq, hv]
  all_goals
    exact opcodesAre_of_row (fun _ => rfl) (fun _ => rfl) (fun m => by cases m <;> rfl) (fun m => by cases m <;> rfl)

/-- Settles O24: each is a read-modify-write that ejects bit 7 or bit 0, a rotate with the old carry in its place. -/
theorem shiftsAndRotates : Obligations.ShiftsAndRotates := by
  refine ⟨?_, ?_, ?_, ?_, fun o s v c hv hc => ⟨?asl, ?lsr, ?rol, ?ror⟩⟩
  case asl =>
    exact shiftInstr_outcome (fun b _ => b <<< 1) (fun _ => rfl) (fun b _ => shiftLeft_eq b) rfl rfl hv hc
  case lsr =>
    exact shiftInstr_outcome (fun b _ => b >>> 1) (fun _ => rfl) (fun b _ => shiftRight_eq b) rfl rfl hv hc
  case rol =>
    exact shiftInstr_outcome (fun b c => (b <<< 1) ||| (if c then 1 else 0)) (fun _ => rfl)
      (fun b t => rotateLeft_eq b (t.flag .c)) rfl rfl hv hc
  case ror =>
    exact shiftInstr_outcome (fun b c => (b >>> 1) ||| (if c then 0x80 else 0)) (fun _ => rfl)
      (fun b t => rotateRight_eq b (t.flag .c)) rfl rfl hv hc
  all_goals
    exact opcodesAre_of_row (fun _ => rfl) (fun _ => rfl) (fun m => by cases m <;> rfl) (fun m => by cases m <;> rfl)

end Sys2Proof.Proofs
end

section
/-! What jumps, calls, returns and branches leave, in terms of the bytes that stand in memory (R290 to R295), and the
row of an instruction whose opcode byte is known (R152). -/

namespace Sys2Proof.Machine

/-- What the absolute jump comes to (R290). -/
theorem exec_jmpAbs (w : Word) (s : State) : exec (.jmpAbs w) s = .next (charge 3 (s.setPc w)) := rfl

/-- The target and the state that two pointer reads give the indirect jump (R141). -/
theorem jumpPointer_of_reads {w : Word} {lo hi : Byte} {s s1 s2 : State} (hlo : busRead w s = (lo, s1))
    (hhi : busRead (sameNextInPage w) s1 = (hi, s2)) : jumpPointer w s = (word16 hi lo, s2) := by
  simp only [jumpPointer, hlo, hhi]

/-- The pointer reads of the indirect jump change nothing of the state but the count of answers and the history. -/
theorem jumpPointer_effect {w target : Word} {s t : State} (h : jumpPointer w s = (target, t)) :
    ∃ d e, t = { s with draws := d, events := e } := by
  have heffect := resolve_effect (.ind w) s
  rwa [show (resolve (.ind w) s).state = t from congrArg Prod.snd h] at heffect

/-- What the indirect jump comes to (R291). -/
theorem exec_jmpInd {w target : Word} {s t : State} (h : jumpPointer w s = (target, t)) :
    exec (.jmpInd w) s = .next (charge 5 (t.setPc target)) :=
  calc exec (.jmpInd w) s = .next (charge 5 ((jumpPointer w s).2.setPc (jumpPointer w s).1)) := rfl
    _ = _ := by rw [h]

/-- A change of the count of answers and the history changes no register and no flag. -/
theorem Frame.accesses (regs : List Reg) (flags : List Flag) (d : Nat) (e : List Event) (s : State) :
    Frame regs flags s { s with draws := d, events := e } where
  reg r _ := by cases r <;> rfl
  flag _ _ := rfl
  pending := rfl
  fault := rfl
  stopped := rfl
  bank := rfl
  chr := rfl
  mirroring := rfl

/-- A jump and its charge change no register and no flag. -/
theorem Frame.jump (regs : List Reg) (flags : List Flag) (n : Nat) (pc : Word) (s : State) :
    Frame regs flags s (Machine.charge n (s.setPc pc)) := (jumpOutcome pc (Only.refl regs flags s)).frame

/-- A push stores its byte where SP designates, and nowhere else (R100). -/
theorem storedAt_push8 (v : Byte) (s : State) : StoredAt (stackAddr s.sp) v s (push8 v s) :=
  (storedAt_busWrite _ v s).congr (SameMemory.of_eq rfl rfl rfl) (SameMemory.of_eq rfl rfl rfl)

/-- A 16-bit push changes no register but SP, and no flag (R102). -/
theorem Frame.push16 (w : Word) (s : State) : Frame [.sp] [] s (Machine.push16 w s) := by
  rw [push16_eq]
  exact ((Frame.setRam _ s).mono (List.forall_mem_nil _) (List.forall_mem_nil _)).trans (Only.setSp _ _).frame

/-- A 16-bit push stores the high byte where SP designates, and then the low byte below it (R102). -/
theorem storedAt_push16 (w : Word) (s : State) :
    StoredAt (stackAddr s.sp) (hi8 w) s (push8 (hi8 w) s) ∧
      StoredAt (stackAddr (s.sp - 1)) (lo8 w) (push8 (hi8 w) s) (push16 w s) := by
  have hsp : (push8 (hi8 w) s).sp = s.sp - 1 := by rw [push8_eq]; rfl
  exact ⟨storedAt_push8 _ s, hsp ▸ storedAt_push8 (lo8 w) (push8 (hi8 w) s)⟩

/-- The word a 16-bit pop gives is the one that stands above SP, low byte first (R103). -/
theorem pop16_eq_peek (s : State) :
    pop16 s = (word16 (peek s (stackAddr (s.sp + 2))) (peek s (stackAddr (s.sp + 1))), s.setSp (s.sp + 2)) := by
  rw [pop16_eq, peek_stackAddr, peek_stackAddr]

/-- The return from an interrupt takes P and then PC from the bytes that stand above SP (R295). -/
theorem exec_rti (s : State) :
    exec .rti s = .next (charge 6 (((s.setSp (s.sp + 3)).setP (importP (peek s (stackAddr (s.sp + 1))))).setPc
      (word16 (peek s (stackAddr (s.sp + 3))) (peek s (stackAddr (s.sp + 2)))))) :=
  calc exec .rti s = .next (charge 6 (returnFromInterrupt s)) := rfl
    _ = _ := by simp only [returnFromInterrupt_eq, peek_stackAddr]

/-- A branch not taken has no effect beside its base cost (R294). -/
theorem branchInstr_not_taken (i : Instr) (offset : Byte) (s : State) :
    branchInstr i offset false s = plainInstr i id s := rfl

/-- A branch taken goes to its target at one more cycle, and at two more into another page than the next
instruction's (R139, R294). -/
theorem branchInstr_taken {i : Instr} (hcost : i.baseCycles = 2) (offset : Byte) (s : State) :
    branchInstr i offset true s =
      charge (if (s.pc + signExtend16 offset).toNat / 256 = s.pc.toNat / 256 then 3 else 4)
        (s.setPc (s.pc + signExtend16 offset)) := by
  have hcharge : branchInstr i offset true s =
      charge (2 + (1 + (crosses s.pc (s.pc + signExtend16 offset)).toNat)) (s.setPc (s.pc + signExtend16 offset)) := by
    simp [branchInstr, resolve, account, hcost]
  have hcross := crosses_iff s.pc (s.pc + signExtend16 offset)
  rw [hcharge]
  split
  next hsame => rw [Bool.eq_false_iff.mpr (mt hcross.mp (not_not_intro hsame))]; rfl
  next hother => rw [hcross.mpr hother]; rfl

/-- An instruction that is a branch of base cost 2 has a branch's outcome (R294). -/
theorem branchOutcome {i : Instr} {offset : Byte} {cond : Bool} {s : State}
    (hx : exec i s = .next (branchInstr i offset cond s)) (hcost : i.baseCycles = 2) :
    BranchOutcome i offset cond s := by
  cases cond with
  | false =>
    rw [branchInstr_not_taken] at hx
    exact ⟨_, hx, fun _ => ⟨rfl, plainOutcome s (Only.refl [] [] s) hcost⟩, nofun⟩
  | true =>
    rw [branchInstr_taken hcost] at hx
    exact ⟨_, hx, nofun, fun _ => ⟨branchTarget_toNat s offset, jumpOutcome _ (Only.refl [] [] s)⟩⟩

theorem encode_of_opcode {i : Instr} {op : Byte} (h : i.opcode = some op) : encode i = op :: i.operandBytes := by
  rw [encode, h]

theorem baseCycles_nopImp {op : Byte} (h : op ∈ nopImpOpcodes) : (Instr.nopImp op).baseCycles = 2 := by
  fin_cases h <;> rfl

theorem baseCycles_nopImm {op : Byte} (h : op ∈ nopImmOpcodes) (b : Byte) : (Instr.nopImm op b).baseCycles = 2 := by
  fin_cases h <;> rfl

/-- An instruction of base cost 2 whose effect is none leaves the state as it was but for the charge (R305, R331,
R332). -/
theorem nopOutcome {i : Instr} {s : State} (hx : exec i s = .next (plainInstr i id s)) (hcost : i.baseCycles = 2) :
    ∃ t, exec i s = .next t ∧ PlainOutcome 2 [] [] s t ∧ t.pc = s.pc :=
  ⟨_, hx, plainOutcome s (Only.refl [] [] s) hcost, rfl⟩

end Sys2Proof.Machine
end

section
/-! The obligations on control transfers, BRK and the NOPs (44_control.md). -/

namespace Sys2Proof.Proofs

open Sys2Proof.Machine

/-- Settles O25: both set PC and charge; the indirect jump after its two reads, which change no byte of memory. -/
theorem jumps : Obligations.Jumps := by
  refine ⟨fun _ => rfl, fun _ => rfl, fun s w => ⟨⟨_, exec_jmpAbs w s, ?absolute, rfl⟩, ?indirect⟩⟩
  case absolute => exact jumpOutcome w (Only.refl [] [] s)
  case indirect =>
    intro lo hi s1 s2 hlo hhi
    rw [← sameNextInPage_eq] at hhi
    have hpointer := jumpPointer_of_reads hlo hhi
    refine ⟨_, exec_jmpInd hpointer, ?_⟩
    obtain ⟨d, e, rfl⟩ := jumpPointer_effect hpointer
    exact ⟨(Frame.accesses [] [] d e s).trans (Frame.jump [] [] 5 _ _), rfl, SameMemory.of_eq rfl rfl rfl,
      ⟨rfl, rfl, rfl⟩, word16_toNat hi lo⟩

/-- Settles O26: the call is one 16-bit push and a jump, the return one 16-bit pop and a jump past it. -/
theorem subroutines : Obligations.Subroutines := by
  refine ⟨fun _ => rfl, rfl, fun s => ⟨fun w => ?call, ?ret⟩⟩
  case call =>
    have hframe := (Frame.push16 (s.pc - 1) s).trans (Frame.jump [.sp] [] 6 w _)
    obtain ⟨hhigh, hlow⟩ := storedAt_push16 (s.pc - 1) s
    refine ⟨_, _, exec_jsr w s, rfl, ?_, hframe, ?_, ?_, hhigh,
      hlow.congr (SameMemory.of_eq rfl rfl rfl) (SameMemory.of_eq rfl rfl rfl)⟩
    all_goals rw [push16_eq]
    · rfl
    · rfl
    · exact ⟨rfl, rfl, rfl⟩
  case ret =>
    rintro _ _ rfl rfl
    refine ⟨_, exec_rts s, ?_⟩
    rw [pop16_eq_peek]
    refine ⟨jumpOutcome _ (Only.setSp _ s), rfl, ?_⟩
    rw [← word16_toNat]
    exact BitVec.toNat_add _ 1

/-- Settles O28: each is a branch on its flag. -/
theorem branches : Obligations.Branches :=
  ⟨fun _ => ⟨rfl, rfl, rfl, rfl, rfl, rfl, rfl, rfl⟩, fun _ _ =>
    ⟨branchOutcome rfl rfl, branchOutcome rfl rfl, branchOutcome rfl rfl, branchOutcome rfl rfl,
      branchOutcome rfl rfl, branchOutcome rfl rfl, branchOutcome rfl rfl, branchOutcome rfl rfl⟩⟩

/-- Settles O29: the three bytes popped are those that stand above SP. -/
theorem rtiPopsPThenPc : Obligations.RtiPopsPThenPc := by
  refine ⟨rfl, ?_⟩
  rintro s _ _ _ rfl rfl rfl
  refine ⟨_, exec_rti s, ?frame, SameMemory.of_eq rfl rfl rfl, ⟨rfl, rfl, rfl⟩, rfl, rfl, word16_toNat _ _⟩
  case frame =>
    refine (Frame.trans ?_ (Frame.setP _ _ _)).trans (Frame.jump _ _ _ _ _)
    exact (Only.setSp _ s).frame.mono (fun _ => id) (List.forall_mem_nil _)

/-- Settles O30: the effect is on B and the stop signal alone. -/
theorem brkStopsAndPushesNothing : Obligations.BrkStopsAndPushesNothing := by
  refine ⟨rfl, fun s => ⟨charge 7 ((s.setFlag .b true).setStopped true), rfl, rfl, ?set, fun f hf => ?other,
    State.setFlag_unused .b true s, fun r => ?reg, rfl, SameMemory.of_eq rfl rfl rfl, ⟨rfl, rfl, rfl⟩,
    rfl, rfl, rfl, rfl, rfl⟩⟩
  case set => simp
  case other => simp [hf]
  case reg => cases r <;> rfl

/-- Settles O32: the memory forms are operand reads without effect, the others instructions without effect. -/
theorem nops : Obligations.Nops := by
  refine ⟨rfl, fun op => ⟨decide_eq_true_iff, fun h => ?imp⟩, fun op b => ⟨decide_eq_true_iff, fun h => ?imm⟩,
    fun op o => ⟨decide_eq_true_iff.trans ?rows, fun h => ?mem⟩, fun s => ⟨nopOutcome rfl rfl, fun op h => ?implied,
      fun op b h => ?immediate, fun op o => ⟨_, rfl, readOutcome s fun _ t => Only.refl [] [] t⟩⟩⟩
  case imp | imm | mem => exact encode_of_opcode (if_pos (of_decide_eq_true h))
  case rows =>
    generalize o.mode = m
    cases m <;> simp [nopMemOpcodes]
  case implied => exact nopOutcome rfl (baseCycles_nopImp (of_decide_eq_true h))
  case immediate => exact nopOutcome rfl (baseCycles_nopImm (of_decide_eq_true h) b)

end Sys2Proof.Proofs
end

section
/-! What an instruction that sets or clears one flag leaves (R320 to R326). -/

namespace Sys2Proof.Machine

/-- An instruction of base cost 2 whose effect is one flag's value leaves all else as it was but for the charge. -/
theorem setFlagOutcome {i : Instr} {f : Flag} {v : Bool} {s : State}
    (hx : exec i s = .next (plainInstr i (State.setFlag f v) s)) (hcost : i.baseCycles = 2) :
    ∃ t, exec i s = .next t ∧ PlainOutcome 2 [] [f] s t ∧ t.pc = s.pc ∧ t.flag f = v := by
  refine ⟨_, hx, plainOutcome s (Only.setFlag f v s) hcost, rfl, ?set⟩
  case set =>
    calc (plainInstr i (State.setFlag f v) s).flag f
      _ = (s.setFlag f v).flag f := rfl
      _ = v := by rw [State.setFlag_flag, if_pos rfl]

end Sys2Proof.Machine
end

section
/-! The obligation on the flag instructions (45_flags.md). -/

namespace Sys2Proof.Proofs

open Sys2Proof.Machine

/-- Settles O33: each is the setting of its flag, in one opcode byte at base cost 2. -/
theorem flagInstructions : Obligations.FlagInstructions := by
  intro s
  simp only [List.forall_mem_cons]
  refine ⟨?clc, ?sec, ?cli, ?sei, ?clv, ?cld, ?sed, List.forall_mem_nil _⟩
  case clc | sec | cli | sei | clv | cld | sed => exact ⟨rfl, setFlagOutcome rfl rfl⟩

end Sys2Proof.Proofs
end

section
/-! What an instruction that reads, stores and then combines leaves (R330, R334 to R341), and what a combined operation
on an immediate byte leaves (R342 to R345). -/

namespace Sys2Proof.Machine

/-- The effect of a combined shift that made `r` of `v`: C is the ejected bit `k`, and A is combined with `r` by `op`
(R334 to R336). -/
def shiftInto (op : Byte → Byte → Byte) (k : Nat) (v r : Byte) (t : State) : State :=
  (t.setFlag .c (v.getLsbD k)).loadA (op t.a r)

theorem Only.shiftInto (op : Byte → Byte → Byte) (k : Nat) (v r : Byte) (t : State) :
    Only [.a] [.c, .n, .z] t (shiftInto op k v r t) :=
  (Only.setFlag .c _ t).comp (Only.loadA _ _)

/-- What a combined shift leaves in A, C, N and Z, if A was `a` before it; the charge after it keeps them. -/
theorem account_shiftInto {a : Byte} {t : State} (ha : t.a = a) (i : Instr) (crossed : Bool) (n : Nat)
    (op : Byte → Byte → Byte) (k : Nat) (v r : Byte) :
    (account i crossed n (shiftInto op k v r t)).flag .c = v.getLsbD k ∧
      (account i crossed n (shiftInto op k v r t)).a = op a r ∧
      NZOf (account i crossed n (shiftInto op k v r t)).a (account i crossed n (shiftInto op k v r t)) := by
  subst ha
  exact ⟨by simp [shiftInto], rfl, nzOf_of_p rfl⟩

/-- An operand's accesses and a store leave A as it was. -/
theorem busWrite_operandState_a (ea : Word) (r : Byte) (o : Operand) (s : State) :
    (busWrite ea r (operandState o s)).a = s.a := by
  rw [busWrite_a, operandState_a]

/-- An operand's accesses and a store leave every flag as it was. -/
theorem busWrite_operandState_flag (ea : Word) (r : Byte) (o : Operand) (s : State) (g : Flag) :
    (busWrite ea r (operandState o s)).flag g = s.flag g := by
  rw [busWrite_flag, operandState_flag]

/-- A combined shift: the byte stored, A and the flags away from the ROM window, the fault recorded in it (R334 to
R336, R402, R403). -/
theorem shiftIntoInstr_outcome {i : Instr} {o : Operand} {f : Byte → State → Byte} {op : Byte → Byte → Byte} {k : Nat}
    {r : Byte} {s : State} (hx : exec i s = .next (modifyInstr i o f (shiftInto op k) s))
    (h : o.oneOf comboModes = true) (hr : f (operandValue o s) (operandState o s) = r) :
    (inRom (effectiveAddress o s) = false →
      ∃ t, exec i s = .next t ∧ StoreOutcome i o r (operandState o s) [.a] [.c, .n, .z] s t ∧
        t.flag .c = (operandValue o s).getLsbD k ∧ t.a = op s.a r ∧ NZOf t.a t) ∧
    (inRom (effectiveAddress o s) = true → exec i s = .next (romFault o r s)) := by
  obtain ⟨ho, hm⟩ := oneOf_ne h (by decide) (by decide)
  exact modifyInstr_outcome hx ho hm hr (Only.shiftInto op k)
    (account_shiftInto (busWrite_operandState_a ..) ..)

/-- AddWithCarry from a state whose A and C are known, and the charge after it (R240). -/
theorem sumLeft_of_eq {a : Byte} {c : Bool} {t : State} (ha : t.a = a) (hc : t.flag .c = c) (i : Instr)
    (crossed : Bool) (n : Nat) (b : Byte) : SumLeft (addBytes a b c) (account i crossed n (t.addWithCarry b)) := by
  subst ha hc
  exact sumLeft_account i crossed n b t

/-- AddWithCarry right after C was written takes the carry written, as in RRA (R337). -/
theorem sumLeft_of_setCarry {a : Byte} {t : State} (ha : t.a = a) (i : Instr) (crossed : Bool) (n : Nat) (c : Bool)
    (b : Byte) : SumLeft (addBytes a b c) (account i crossed n ((t.setFlag .c c).addWithCarry b)) :=
  sumLeft_of_eq (t := t.setFlag .c c) ha (by rw [State.setFlag_flag, if_pos rfl]) i crossed n b

/-- The sum left, in natural numbers (R240). -/
theorem SumLeft.add {a b : Byte} {c : Bool} {t : State} (h : SumLeft (addBytes a b c) t) :
    t.a.toNat = (a.toNat + b.toNat + c.toNat) % 256 ∧ (t.flag .c = true ↔ a.toNat + b.toNat + c.toNat > 0xFF) ∧
      t.flag .v = ((t.a ^^^ a) &&& (t.a ^^^ b)).getLsbD 7 ∧ NZOf t.a t := by
  refine ⟨?_, ?_, ?_, h.nz⟩
  · rw [h.a]
    exact BitVec.toNat_ofNat _ 8
  · rw [h.carry]
    exact decide_eq_true_iff
  · rw [h.overflow, h.a]
    rfl

/-- The sum of a complement left, as a subtraction with borrow (R242). -/
theorem SumLeft.subtract {a b : Byte} {c : Bool} {t : State} (h : SumLeft (addBytes a (~~~b) c) t) :
    t.a = a - b - BitVec.ofNat 8 (1 - if c then 1 else 0) ∧
      (t.flag .c = true ↔ b.toNat + (1 - if c then 1 else 0) ≤ a.toNat) ∧
      t.flag .v = ((t.a ^^^ a) &&& (t.a ^^^ ~~~b)).getLsbD 7 ∧ NZOf t.a t := by
  obtain ⟨-, -, hoverflow, hnz⟩ := h.add
  exact ⟨by rw [h.a, addBytes_not_result], by rw [h.carry, addBytes_not_carry], hoverflow, hnz⟩

/-- Bit 0 of a byte is its remainder by 2. -/
theorem getLsbD_zero_toNat (v : Byte) : (v.getLsbD 0).toNat = v.toNat % 2 := by
  rw [BitVec.getLsbD, Nat.toNat_testBit, pow_zero, Nat.div_one]

/-- The flags a comparison of A leaves, if A was `a` before it (R243). -/
theorem account_compare {a : Byte} {t : State} (ha : t.a = a) (i : Instr) (crossed : Bool) (n : Nat) (r : Byte) :
    ((account i crossed n (t.compare t.a r)).flag .c = true ↔ r.toNat ≤ a.toNat) ∧
      ((account i crossed n (t.compare t.a r)).flag .z = true ↔ a = r) ∧
      (account i crossed n (t.compare t.a r)).flag .n = (a - r).getLsbD 7 := by
  subst ha
  exact ⟨by simp, by simp, by simp⟩

theorem baseCycles_anc {op : Byte} (h : op ∈ ancOpcodes) (b : Byte) : (Instr.anc op b).baseCycles = 2 := by
  fin_cases h <;> rfl

/-- An instruction of base cost 2 on an immediate byte makes no data access: its effect and its charge are all. -/
theorem immediateInstr_outcome {i : Instr} {b : Byte} {f : Byte → State → State} {regs : List Reg} {flags : List Flag}
    {s : State} {Q : State → Prop} (hx : exec i s = .next (readInstr i (.imm b) f s)) (hcost : i.baseCycles = 2)
    (hf : Only regs flags s (f b s)) (hQ : Q (account i false 0 (f b s))) :
    ∃ t, exec i s = .next t ∧ PlainOutcome 2 regs flags s t ∧ t.pc = s.pc ∧ Q t :=
  ⟨plainInstr i (f b) s, hx, plainOutcome s hf hcost, hf.pc, hQ⟩

end Sys2Proof.Machine
end

section
/-! The obligations on the undocumented opcodes (46_undocumented.md). -/

namespace Sys2Proof.Proofs

open Sys2Proof.Machine

/-- Settles O34: each is a read-modify-write whose effect combines A with the byte stored. -/
theorem shiftAndCombine : Obligations.ShiftAndCombine := by
  refine ⟨?_, ?_, ?_, ?effect⟩
  case effect =>
    rintro o s _ _ rfl rfl
    refine ⟨fun r h hr => ?slo, fun r h hr => ?rla, fun r h hr => ?sre⟩
    case slo => exact shiftIntoInstr_outcome (op := (· ||| ·)) rfl h ((shiftLeft_eq _).trans hr.symm)
    case rla =>
      refine shiftIntoInstr_outcome (op := (· &&& ·)) rfl h ?_
      rw [operandState_flag, rotateLeft_eq, hr]
    case sre => exact shiftIntoInstr_outcome (op := (· ^^^ ·)) rfl h ((shiftRight_eq _).trans hr.symm)
  all_goals
    exact opcodesAre_of_row (fun _ => rfl) (fun _ => rfl) (fun m => by cases m <;> rfl) (fun m => by cases m <;> rfl)

/-- Settles O35: a read-modify-write whose addition takes the ejected bit 0, v modulo 2, as its carry. -/
theorem rotateAndAdd : Obligations.RotateAndAdd := by
  refine ⟨?rows, ?effect⟩
  case effect =>
    rintro o s _ r _ h rfl hr rfl
    obtain ⟨ho, hm⟩ := oneOf_ne h (by decide) (by decide)
    rw [← getLsbD_zero_toNat]
    refine modifyInstr_outcome rfl ho hm ?result ?frame ?sum
    case result => rw [operandState_flag, rotateRight_eq, hr]
    case frame =>
      exact fun _ _ t => ((Only.setFlag .c _ t).comp (Only.addWithCarry _ _)).mono (by simp) (by simp)
    case sum => exact (sumLeft_of_setCarry (busWrite_operandState_a ..) ..).add
  case rows =>
    exact opcodesAre_of_row (fun _ => rfl) (fun _ => rfl) (fun m => by cases m <;> rfl) (fun m => by cases m <;> rfl)

/-- Settles O36: each is a read-modify-write, whose effect compares A with the byte stored or adds its complement. -/
theorem stepAndCombine : Obligations.StepAndCombine := by
  refine ⟨?_, ?_, ?effect⟩
  case effect =>
    rintro o s _ _ rfl rfl
    refine ⟨fun r h hr => ?dcp, fun r h hr => ?isb⟩
    case dcp =>
      obtain ⟨ho, hm⟩ := oneOf_ne h (by decide) (by decide)
      exact modifyInstr_outcome rfl ho hm hr.symm (fun _ r t => (Only.compare t.a r t).mono (by simp) (by simp))
        (account_compare (busWrite_operandState_a ..) ..)
    case isb =>
      obtain ⟨ho, hm⟩ := oneOf_ne h (by decide) (by decide)
      exact modifyInstr_outcome rfl ho hm hr.symm (fun _ _ t => Only.addWithCarry _ t)
        (sumLeft_of_eq (busWrite_operandState_a ..) (busWrite_operandState_flag ..) ..).subtract
  all_goals
    exact opcodesAre_of_row (fun _ => rfl) (fun _ => rfl) (fun m => by cases m <;> rfl) (fun m => by cases m <;> rfl)

/-- Settles O37: each is an operand read; LAS combines the byte with the SP that the read left alone. -/
theorem combinedLoads : Obligations.CombinedLoads := by
  refine ⟨?rows, fun _ => rfl, fun s => ⟨fun o => ?lax, ?las⟩⟩
  case lax =>
    exact ⟨_, rfl, readOutcome s fun _ t => ((Only.setX _ t).comp (Only.loadA _ _)).mono (by simp) (by simp),
      rfl, rfl, nzOf_of_p rfl⟩
  case las =>
    rintro w _ rfl
    refine ⟨_, rfl, readOutcome s fun _ t =>
      (((Only.setSp _ t).comp (Only.setX _ _)).comp (Only.loadA _ _)).mono (by simp) (by simp), ?_⟩
    rw [← operandState_sp (.absy w) s]
    exact ⟨rfl, rfl, rfl, nzOf_of_p rfl⟩
  case rows =>
    exact opcodesAre_of_row (fun _ => rfl) (fun _ => rfl) (fun m => by cases m <;> rfl) (fun m => by cases m <;> rfl)

/-- Settles O38: each is an effect of its byte on its register and flags alone. -/
theorem immediateCombined : Obligations.ImmediateCombined := by
  refine ⟨fun op b => ⟨decide_eq_true_iff, fun h => encode_of_opcode (if_pos (of_decide_eq_true h))⟩,
    fun b => ⟨rfl, rfl, rfl⟩, ?effect⟩
  rintro s b _ r rfl hr
  rw [← rotateRight_eq] at hr
  subst hr
  refine ⟨fun op h => ?anc, ?alr, ?arr, ?axs⟩
  case anc =>
    exact immediateInstr_outcome rfl (baseCycles_anc (of_decide_eq_true h) b)
      ((Only.loadA _ s).comp (Only.setFlag .c _ _)) ⟨rfl, by simp [NZOf], by simp⟩
  case alr =>
    rw [← shiftRight_eq]
    exact immediateInstr_outcome rfl rfl (((Only.setFlag .c _ s).comp (Only.loadA _ _)).mono (by simp) (by simp))
      ⟨rfl, nzOf_of_p rfl, by simp⟩
  case arr =>
    exact immediateInstr_outcome rfl rfl (((Only.loadA _ s).comp (Only.setFlag .c _ _)).comp (Only.setFlag .v _ _))
      ⟨rfl, by simp [NZOf], by simp, by simp⟩
  case axs =>
    exact immediateInstr_outcome rfl rfl (((Only.setFlag .c _ s).comp (Only.loadX _ _)).mono (by simp) (by simp))
      ⟨rfl, nzOf_of_p rfl, by simp⟩

/-- Settles O39: each raises the fault with its own opcode byte. -/
theorem markedOpcodes : Obligations.MarkedOpcodes := by
  refine ⟨fun _ => ⟨rfl, rfl⟩, ?ahx, fun _ => ⟨rfl, rfl, rfl⟩,
    fun op => ⟨decide_eq_true_iff, fun h => encode_of_opcode (if_pos (of_decide_eq_true h))⟩,
    fun s b w => ⟨rfl, rfl, rfl, rfl, rfl, rfl, rfl, rfl⟩⟩
  case ahx =>
    exact opcodesAre_of_row (fun _ => rfl) (fun _ => rfl) (fun m => by cases m <;> rfl) (fun m => by cases m <;> rfl)

end Sys2Proof.Proofs
end

section
/-! The state a faulting step leaves (R401 to R403): that of the fetch, which changes nothing but PC, the stop signal,
the count of answers and the history, with the fault recorded. -/

namespace Sys2Proof.Machine

/-- An operand byte changes nothing of the state but the count of answers and the history. -/
theorem operandByte_effect (d : Descriptor) (k : Nat) (a : Word) (s : State) :
    ∃ n e, (operandByte d k a s).2 = { s with draws := n, events := e } := by
  unfold operandByte
  split_ifs
  · exact busRead_state a s
  · exact ⟨s.draws, s.events, rfl⟩
  · exact ⟨s.draws, s.events, rfl⟩

/-- What the fetch leaves: PC past the bytes consumed, the stop signal cleared, and the accesses made (R121). -/
theorem fetch_effect {s s1 : State} {op : Byte} (hop : busRead s.pc { s with stopped := false } = (op, s1)) :
    ∃ n e, (fetch s).2 = { s with
      stopped := false, draws := n, events := e, pc := s.pc + BitVec.ofNat 16 (descriptor op).consumed } := by
  obtain ⟨_, _, h0⟩ : ∃ n e, s1 = { s with stopped := false, draws := n, events := e } := by
    simpa only [hop] using busRead_state s.pc { s with stopped := false }
  obtain ⟨_, _, h1⟩ := operandByte_effect (descriptor op) 1 (s.pc + 1) s1
  obtain ⟨n, e, h2⟩ :=
    operandByte_effect (descriptor op) 2 (s.pc + 2) (operandByte (descriptor op) 1 (s.pc + 1) s1).2
  refine ⟨n, e, ?_⟩
  rw [fetch_eq s s1 op hop, h2, h1, h0]
  rfl

theorem assemble_implemented (op b1 b2 : Byte) : (assemble op b1 b2).implemented = (descriptor op).implemented := by
  rw [Instr.implemented, assemble_opcode]

/-- An implemented instruction records a fault only by a write into the ROM window, and then changes nothing but the
count of answers and the history (R402, R403). -/
theorem Ran.romFault {i : Instr} {s t : State} {f : Fault} (h : Ran i s t) (hi : i.implemented = true)
    (hs : s.fault = none) (ht : t.fault = some f) :
    ∃ n e a v, inRom a = true ∧ f = .illegalRomWrite a v ∧
      t = { s with draws := n, events := e, fault := some (.illegalRomWrite a v) } := by
  cases h with
  | charged u n hu e =>
    have hnone : t.fault = none := by rw [e, charge_fault, hu.fault, hs]
    rw [hnone] at ht
    cases ht
  | faulted n es a v _ ha e =>
    subst e
    exact ⟨n, es, a, v, ha, (Option.some.inj ht).symm, rfl⟩
  | marked op hm _ => rw [hi] at hm; cases hm

/-- What a faulting step of an implemented opcode leaves: PC past the whole instruction (R403). -/
theorem step_romFault {s s1 t : State} {op : Byte} {f : Fault} (h : step s = .next t) (ht : t.fault = some f)
    (hop : busRead s.pc { s with stopped := false } = (op, s1)) (hi : (descriptor op).implemented = true) :
    ∃ n e a v, inRom a = true ∧ f = .illegalRomWrite a v ∧ t = { s with
      stopped := false, draws := n, events := e, fault := some (.illegalRomWrite a v)
      pc := s.pc + BitVec.ofNat 16 (descriptor op).length } := by
  obtain ⟨hf, hfetched, hran⟩ := step_ran h
  have himpl : (fetch s).1.implemented = true := by
    rw [fetch_eq s s1 op hop, assemble_implemented, hi]
  obtain ⟨n, e, a, v, ha, rfl, rfl⟩ := hran.romFault himpl (hfetched.fault.trans hf) ht
  obtain ⟨_, _, hfetch⟩ := fetch_effect hop
  rw [hfetch, Descriptor.consumed, if_pos hi]
  exact ⟨n, e, a, v, ha, rfl, rfl⟩

/-- What a step of an opcode behind the unimplemented marker leaves: PC one past it (R401). -/
theorem step_marked {s s1 t : State} {op : Byte} (h : step s = .next t)
    (hop : busRead s.pc { s with stopped := false } = (op, s1)) (hi : (descriptor op).implemented = false) :
    ∃ n e, t = { s with
      stopped := false, draws := n, events := e, pc := s.pc + 1, fault := some (.unimplementedOpcode op s.pc) } := by
  obtain ⟨-, hx⟩ := step_cases h
  obtain ⟨n, e, hfetch⟩ := fetch_effect hop
  have hpc : (fetch s).2.pc - 1 = s.pc := by
    rw [hfetch, consumed_of_marked hi]
    exact BitVec.add_sub_cancel s.pc 1
  rw [show (fetch s).1 = assemble op _ _ from congrArg Prod.fst (fetch_eq s s1 op hop),
    exec_assemble_of_marked hi, raiseUnimplemented, hpc, hfetch, consumed_of_marked hi] at hx
  exact ⟨n, e, (Host.Outcome.next.inj hx).symm⟩

end Sys2Proof.Machine
end

section
/-! What an interrupt entry leaves (R412), and which interrupt an iteration delivers (R420, R421). -/

namespace Sys2Proof.Machine

/-- Interrupt entry field by field, RAM as the three pushes leave it. -/
theorem deliver_state (k : IrqKind) (s : State) :
    deliver k s = { s with
      ram := (push8 (exportP s.p) (push16 s.pc s)).ram, sp := s.sp - 3, p := withFlag .i true s.p
      cycles := s.cycles + 2, events := .videoTick 6 :: s.events
      pc := word16 (peek s (k.vector + 1)) (peek s k.vector), pending := some k } := by
  have hsp : s.sp - 2 - 1 = s.sp - 3 := by bv_omega
  have hcost : k.cost = 2 := by cases k <;> rfl
  rw [deliver_eq, hcost, peek_rom s (inRom_vector k).1, peek_rom s (inRom_vector k).2, push16_eq, push8_eq, ← hsp]
  simp only [charge, State.setFlag, State.setSp, State.setRam, State.setP, State.setPc, State.setPending, State.record]
  rfl

/-- The third byte of an interrupt entry is P with B and U set, two below the first (R412). -/
theorem storedAt_deliver (k : IrqKind) (s : State) :
    StoredAt (stackAddr (s.sp - 2)) (exportP s.p) (push16 s.pc s) (deliver k s) := by
  have hsp : (push16 s.pc s).sp = s.sp - 2 := by rw [push16_eq]; rfl
  have hstored := storedAt_push8 (exportP s.p) (push16 s.pc s)
  rw [hsp] at hstored
  refine hstored.congr (SameMemory.of_eq rfl rfl rfl) ?_
  rw [deliver_state, push16_eq, push8_eq]
  exact SameMemory.of_eq rfl rfl rfl

/-- An NMI asked for is delivered, and nothing else is asked (R421). -/
theorem pollAndDeliver_nmi {s : State} (h : Config.nmiAnswer s.draws = true) :
    pollAndDeliver s = deliver .nmi (s.drawn.record .videoNmiPoll) := if_pos h

/-- Without an NMI, IRQ_LINE is asked, and an IRQ delivered while I is clear (R420). -/
theorem pollAndDeliver_no_nmi {s : State} (h : Config.nmiAnswer s.draws = false) :
    pollAndDeliver s =
      if Config.irqAnswer (s.draws + 1) && !s.flag .i then deliver .irq (s.drawn.record .videoNmiPoll).drawn
      else (s.drawn.record .videoNmiPoll).drawn :=
  if_neg (Bool.eq_false_iff.mp h)

end Sys2Proof.Machine
end

section
/-! One iteration of the run loop (R430), in each way it can go. -/

namespace Sys2Proof.Machine

variable {f : State → State × Bool} {s r t : State} {e : Fault}

theorem iteration_of_fault (h : s.fault = some e) : iteration f s = .ended (.faulted e) s := by
  rw [iteration, h]

theorem iteration_of_stop_request (h : s.fault = none) (hf : f (pollAndDeliver s) = (r, true)) :
    iteration f s = .ended .hostStopped r := by
  simp [iteration, h, hf]

theorem iteration_of_no_stop_request (h : s.fault = none) (hf : f (pollAndDeliver s) = (r, false)) :
    iteration f s = stepOfIteration r := by
  simp [iteration, h, hf]

/-- Where the callback left a fault recorded there is no step (R38). -/
theorem stepOfIteration_of_fault (h : s.fault = some e) : stepOfIteration s = .ended (.faulted e) s := by
  rw [stepOfIteration, step_of_fault h]

/-- After the step its fault is tested first, and then the stop signal. -/
theorem stepOfIteration_of_step_fault (h : step s = .next t) (ht : t.fault = some e) :
    stepOfIteration s = .ended (.faulted e) t := by
  simp [stepOfIteration, h, ht]

theorem stepOfIteration_of_step (h : step s = .next t) (ht : t.fault = none) :
    stepOfIteration s = if t.stopped then .ended .stopped t else .running t := by
  simp [stepOfIteration, h, ht]

end Sys2Proof.Machine
end

section
/-! The obligations on faults, interrupts and the run loop (60_exceptions.md). -/

namespace Sys2Proof.Proofs

open Sys2Proof.Machine

/-- Settles O44: the opcode fetched is marked, or a write of its instruction raised; either way the state is that of
the fetch, with the fault recorded. -/
theorem faultIsPrecise : Obligations.FaultIsPrecise := by
  intro s t f h ht
  rcases hop : busRead s.pc { s with stopped := false } with ⟨op, s1⟩
  cases hi : (descriptor op).implemented with
  | false =>
    obtain ⟨n, e, rfl⟩ := step_marked h hop hi
    exact ⟨rfl, rfl, rfl, rfl, rfl, rfl, rfl, rfl, .inl ⟨op, (Option.some.inj ht).symm, rfl, hi, rfl⟩⟩
  | true =>
    obtain ⟨n, e, a, v, ha, hf, rfl⟩ := step_romFault h ht hop hi
    exact ⟨rfl, rfl, rfl, rfl, rfl, rfl, rfl, rfl, .inr ⟨a, v, hf, ha, rfl⟩⟩

/-- Settles O55: the entry is a 16-bit push of PC, a push of P, and the fields that the entry sets. -/
theorem interruptEntry : Obligations.InterruptEntry := by
  intro k s
  obtain ⟨hhigh, hlow⟩ := storedAt_push16 s.pc s
  refine ⟨_, _, hhigh, hlow, storedAt_deliver k s, deliver_sp k s, fun r hr => deliver_reg k s hr, ?_⟩
  rw [deliver_state]
  refine ⟨withFlag_bit .i .i true s.p, fun f hf => (withFlag_bit .i f true s.p).trans (if_neg hf),
    withFlag_unused .i true s.p, ⟨rfl, rfl, rfl⟩, ?vector, rfl, rfl, rfl, rfl, rfl, rfl, rfl⟩
  case vector => cases k <;> rfl

/-- Settles O57: the poll's answer decides first, then IRQ_LINE's and I. -/
theorem interruptChoice : Obligations.InterruptChoice := by
  rintro s _ _ rfl rfl
  refine ⟨pollAndDeliver_nmi, fun hn hq hi => ?_, fun hn hq => ?_⟩
  · rw [pollAndDeliver_no_nmi hn, hq, hi]
    rfl
  · rw [pollAndDeliver_no_nmi hn, if_neg]
    · rfl
    · rcases hq with h | h <;> simp [h]

/-- Settles O58: each clause is one way an iteration goes. -/
theorem runLoopIteration : Obligations.RunLoopIteration := by
  refine fun f s r stop => ⟨fun e => iteration_of_fault, fun hs hf => ⟨?stopRequest, ?callbackFault, ?step⟩⟩
  case stopRequest =>
    rintro rfl
    exact iteration_of_stop_request hs hf
  case callbackFault =>
    rintro rfl e he
    rw [iteration_of_no_stop_request hs hf, stepOfIteration_of_fault he]
  case step =>
    rintro rfl t ht
    rw [iteration_of_no_stop_request hs hf]
    refine ⟨fun e he => stepOfIteration_of_step_fault ht he, fun he hstop => ?_, fun he hgo => ?_⟩
    · rw [stepOfIteration_of_step ht he, if_pos hstop]
    · rw [stepOfIteration_of_step ht he, if_neg (Bool.eq_false_iff.mp hgo)]

end Sys2Proof.Proofs
end


section
/-! The accounting of a step (R114, R472): its accesses, and then one charge, or one fault and no charge. -/

namespace Sys2Proof.Machine

/-- From `s` to `t` accesses were made, none of them a tick, and then either one charge, whose ticks are three for
every cycle, or none, with a fault recorded. -/
def AccountedLast (s t : State) : Prop :=
  ∃ (es : List Event) (n : Nat), noTick es = true ∧ t.cycles = s.cycles + n ∧
    ((t.fault = none ∧ t.events = .videoTick (3 * n) :: es ++ s.events) ∨
     (t.fault ≠ none ∧ n = 0 ∧ t.events = es ++ s.events))

/-- However an instruction ends, its charge or its fault comes after its accesses. -/
theorem Ran.accountedLast {i : Instr} {s t : State} (h : Ran i s t) (hs : s.fault = none) : AccountedLast s t := by
  cases h with
  | charged u n hu e =>
    obtain ⟨es, hes, hno⟩ := hu.history
    subst e
    refine ⟨es, n, hno, by rw [charge_cycles, hu.cycles], .inl ⟨hu.fault.trans hs, ?_⟩⟩
    rw [charge_events, hes]
    rfl
  | faulted d es a v hu ha e =>
    obtain ⟨fs, hfs, hno⟩ := hu.history
    subst e
    exact ⟨fs, 0, hno, rfl, .inr ⟨Option.some_ne_none _, rfl, hfs⟩⟩
  | marked op hm e =>
    subst e
    exact ⟨[], 0, rfl, rfl, .inr ⟨Option.some_ne_none _, rfl, rfl⟩⟩

/-- Accesses made before are among the accesses. -/
theorem Accesses.accountedLast {s u t : State} (h : Accesses s u) (k : AccountedLast u t) :
    AccountedLast s t := by
  obtain ⟨fs, hfs, hfno⟩ := h.history
  obtain ⟨es, n, heno, hcycles, hend⟩ := k
  refine ⟨es ++ fs, n, by rw [noTick_append, heno, hfno]; rfl, by rw [hcycles, h.cycles], ?_⟩
  obtain ⟨hf, he⟩ | ⟨hf, hn, he⟩ := hend
  · exact .inl ⟨hf, by rw [he, hfs, ← List.cons_append, List.append_assoc]⟩
  · exact .inr ⟨hf, hn, by rw [he, hfs, List.append_assoc]⟩

end Sys2Proof.Machine
end

section
/-! Construction (R450, R455), reset (R451) and the host's load (R457): what each comes to. -/

namespace Sys2Proof.Machine

/-- A cartridge with a program ROM of neither length is refused (R455). -/
theorem powerOn_of_bad_length {r : Config.PReset} {cart : Cartridge} {ramInit : List Byte}
    (h1 : cart.prg.length ≠ 0x4000) (h2 : cart.prg.length ≠ 0x8000) :
    powerOn r cart ramInit = .refused (.badProgramLength cart.prg.length) := by
  rw [powerOn, bankOf_other h1 h2]

/-- A cell of RAM holds what RAM_INIT gives it (R455): what it gives past the end of RAM is cut off. -/
theorem Memory.read_ofBytes_take (bs : List Byte) {n j : Nat} (h : j < n) :
    (Memory.ofBytes (bs.take n)).read j = bs.getD j Config.unlistedByte := by
  rw [Memory.read_ofBytes, List.getD_eq_getElem?_getD, List.getD_eq_getElem?_getD, List.getElem?_take_of_lt h]

/-- Both values of P_RESET have U set (R28). -/
theorem pReset_value_unused (r : Config.PReset) : r.value.getLsbD unusedBit = true := by cases r <;> rfl

/-- A new CPU around a bus in canonical form meets the invariant. -/
theorem newCpu_inv (r : Config.PReset) {s : State} (hram : s.ram.wf Config.ramSize = true)
    (hprg : s.prg.wf s.bank.size = true) : Inv (newCpu r s) :=
  ⟨hram, hprg, pReset_value_unused r⟩

/-- The reset vector is in the ROM window (R451). -/
theorem inRom_vecReset : inRom Config.vecReset = true ∧ inRom (Config.vecReset + 1) = true := by decide

/-- Its two bytes are the fourth and the third from the end of program ROM, whatever the bank (R88). -/
theorem romOffset_vecReset (k : Bank) :
    romOffset k Config.vecReset = k.size - 4 ∧ romOffset k (Config.vecReset + 1) = k.size - 3 := by
  cases k <;> decide

/-- What reset comes to (R451, R452): the vector is read from program ROM, with no effect. -/
theorem resetCpu_eq (r : Config.PReset) (s : State) :
    resetCpu r s = { s with
      a := 0x00, x := 0x00, y := 0x00, sp := 0xFD, p := r.value, pending := none
      cycles := s.cycles + 7, events := .videoTick 21 :: s.events
      pc := word16 (peek s (Config.vecReset + 1)) (peek s Config.vecReset) } := by
  obtain ⟨hlow, hhigh⟩ := inRom_vecReset
  rw [resetCpu, busRead16_rom _ hlow hhigh, peek_rom s hlow, peek_rom s hhigh]
  rfl

/-- The copy of a program that fits replaces program ROM and nothing else (R457). -/
theorem copyToRom_loadBase {bytes : List Byte} {s : State} (h : bytes.length ≤ s.bank.size) :
    ∃ m, copyToRom Config.loadBase bytes s = { s with prg := m } ∧
      (∀ j, m.read j = if h : j < bytes.length then bytes[j] else s.prg.read j) ∧
      (s.prg.wf s.bank.size = true → m.wf s.bank.size = true) := by
  have copied (j : Nat) := copyToRom_eq j bytes 0 s (by omega)
  obtain ⟨m, hm, -, hwf⟩ := copied 0
  refine ⟨m, hm, fun j => ?_, hwf⟩
  obtain ⟨m', hm', hread, -⟩ := copied j
  have hmm' : m = m' := congrArg State.prg (hm.symm.trans hm')
  rw [hmm', hread, if_pos (Nat.zero_le j)]
  rfl

/-- Program ROM with LOAD_BASE in the reset vector of a bank (R457). -/
def Memory.writeVector (m : Memory) (k : Bank) : Memory :=
  (m.write (k.size - 4) (lo8 Config.loadBase)).write (k.size - 3) (hi8 Config.loadBase)

theorem Bank.four_lt_size (k : Bank) : 4 < k.size := by cases k <;> decide

/-- The vector's bytes are 0x00 and 0x80; every other cell is as before. -/
theorem Memory.read_writeVector (m : Memory) (k : Bank) (j : Nat) :
    (m.writeVector k).read j = if j = k.size - 4 then 0x00 else if j = k.size - 3 then 0x80 else m.read j := by
  have hsize := k.four_lt_size
  rw [Memory.writeVector, Memory.read_write, Memory.read_write]
  by_cases hlo : j = k.size - 4
  · rw [if_neg (by omega), if_pos hlo, if_pos hlo]
    rfl
  · rw [if_neg hlo, if_neg hlo]
    rfl

/-- The vector stands inside the bank, so writing it keeps the canonical form. -/
theorem Memory.wf_writeVector {m : Memory} {k : Bank} (h : m.wf k.size = true) :
    (m.writeVector k).wf k.size = true := by
  have hsize := k.four_lt_size
  exact Memory.wf_write _ (by omega) (Memory.wf_write _ (by omega) h)

/-- What the load of a program that fits comes to: its copy, and then the vector (R457). -/
theorem loadProgram_of_fits {bytes : List Byte} {s : State} {m : Memory} (h : bytes.length ≤ s.bank.size)
    (hm : copyToRom Config.loadBase bytes s = { s with prg := m }) :
    loadProgram bytes s = .next { s with prg := m.writeVector s.bank } := by
  obtain ⟨hlo, hhi⟩ := romOffset_vecReset s.bank
  rw [loadProgram, if_neg (by omega), hm]
  simp only [writeRom, State.setPrg, hlo, hhi]
  rfl

/-- A reset starts at LOAD_BASE where the vector was written so. -/
theorem resetCpu_pc_of_writeVector (r : Config.PReset) (s : State) (m : Memory) :
    (resetCpu r { s with prg := m.writeVector s.bank }).pc = 0x8000 := by
  obtain ⟨hlow, hhigh⟩ := inRom_vecReset
  obtain ⟨hlo, hhi⟩ := romOffset_vecReset s.bank
  have hsize := s.bank.four_lt_size
  have hne : s.bank.size - 3 ≠ s.bank.size - 4 := by omega
  rw [resetCpu_eq, peek_rom _ hlow, peek_rom _ hhigh]
  simp only [hlo, hhi, Memory.read_writeVector, if_true, if_neg hne]
  rfl

end Sys2Proof.Machine
end

section
/-! The obligations on reset, construction and loading (70_reset_and_hazards.md), and on the order of a step's
accesses and ticks (R472). -/

namespace Sys2Proof.Proofs

open Sys2Proof.Machine

/-- Settles O42: the fetch's accesses come first, then those of the instruction, and last its charge or its fault. -/
theorem ticksFollowAccesses : Obligations.TicksFollowAccesses := by
  intro s t h
  obtain ⟨hs, hfetch, hran⟩ := step_ran h
  exact hfetch.accountedLast (hran.accountedLast (hfetch.fault.trans hs))

/-- Settles O51: what reset comes to, with the vector at 0xFFFC and 0xFFFD. -/
theorem reset : Obligations.Reset := ⟨rfl, rfl, resetCpu_eq⟩

/-- Settles O52: a bank's length is what decides, and the two memories are the arrays of the bytes given. -/
theorem powerOn : Obligations.PowerOn := by
  refine ⟨rfl, rfl, fun r cart ramInit => ⟨powerOn_of_bad_length, fun k hk => ?_⟩⟩
  refine ⟨_, powerOn_of_length hk, rfl, rfl, rfl, rfl, rfl, rfl, rfl, rfl, rfl, rfl, rfl, rfl, rfl,
    fun j _ => Memory.read_ofBytes cart.prg j, fun j hj => Memory.read_ofBytes_take ramInit hj, newCpu_inv r ?ram ?prg⟩
  case ram => exact Memory.wf_ofBytes (List.length_take_le _ _)
  case prg => exact Memory.wf_ofBytes hk.le

/-- Settles O54: the copy of the bytes, over which the vector is written. -/
theorem load : Obligations.Load := by
  refine fun bytes s => ⟨loadProgram_too_long, fun h => ?_⟩
  obtain ⟨m, hm, hread, hwf⟩ := copyToRom_loadBase h
  refine ⟨m.writeVector s.bank, loadProgram_of_fits h hm, fun j _ => ?_, fun hs => Memory.wf_writeVector (hwf hs),
    fun r => resetCpu_pc_of_writeVector r s m⟩
  rw [Memory.read_writeVector, hread]

end Sys2Proof.Proofs
end
